-- ==== Sys2Proof/Word.lean ====
section
/-! DEFINITION. The widths of the spec's rule R8 and of the fields of 10_state.md, under one name each. The block has no
memory and no general register (R31, R80): these are the words its named fields hold. -/

namespace Sys2Proof

/-- An unsigned 32-bit number: ticks and timestamps, bus request and response words, frequencies, timeouts (R8). -/
abbrev U32 := BitVec 32

/-- An unsigned 16-bit number: `toneValue` (R52) and the payload of a bus word (R110). -/
abbrev U16 := BitVec 16

/-- An unsigned 8-bit number: volume (R51) and the packed encoder samples (R101). -/
abbrev U8 := BitVec 8

/-- A 12-bit sample: `ADC_BITS = DAC_BITS = 12` (R7, R54, R107). -/
abbrev U12 := BitVec 12

/-- A sampled encoder signal `line1 * 2 + line0` (R100). -/
abbrev Signal := BitVec 2

/-- The index of an encoder: `NUM_ENCODERS = 4` (R7). -/
abbrev EncIx := Fin 4

/-- A decoder state index, held in 3 bits (R8, R32). -/
abbrev StIx := Fin 8

/-- `clamp(x, lo, hi)` of R13. -/
def clamp (x lo hi : Nat) : Nat :=
  if x < lo then lo else if hi < x then hi else x

end Sys2Proof
end

