-- ==== Sys2Proof/Syntax.lean ====
section
/-! DEFINITION. The values that cross the block's interfaces (30_encoding.md section 1) and `Instr`, one constructor for every
row of spec/opcode_table.json: the operations of the operation map (R120) and the bus request-word forms (R110 to R117). -/

namespace Sys2Proof

/-- The two directions an `EncoderMove` can carry (R41): clockwise and counter-clockwise. -/
inductive Turn where
  | cw
  | ccw
deriving DecidableEq, Repr, Inhabited

/-- Direction `{None, Clockwise, CounterClockwise}` (R102); `none` is the spec's None. -/
abbrev Direction := Option Turn

/-- The two kinds of transition table (R16, R33). -/
inductive EncoderProfile where
  | a
  | b
deriving DecidableEq, Repr, Inhabited

/-- AudioMode (R50, R103). -/
inductive AudioMode where
  | off
  | adcPassthrough
  | toneValue
  | toneFrequency
deriving DecidableEq, Repr, Inhabited

/-- What the environment reports of an audio interrupt's source (R106). -/
inductive AudioSrc where
  | expected
  | wrongSource
  | dupOrLost
deriving DecidableEq, Repr, Inhabited

/-- EncoderMove (R41): its direction is never None. -/
structure EncoderMove where
  enc : EncIx
  time : U32
  dir : Turn
deriving DecidableEq, Repr, Inhabited

/-- UiEvent (R42, R104). -/
inductive UiEvent where
  | encoderMove (m : EncoderMove)
  | periodicTick
  | pageChangeRequest (page : U32)
  | generateSubModeRequest (kind : U32)
deriving DecidableEq, Repr, Inhabited

/-- The arguments `(tag, payload)` of SEND_UI_EVENT as they stand in its descriptor (R104): tags 0 to 3 with their payloads, a move's
direction field still possibly None, and a tag above 3, which R105 makes fatal. -/
inductive UiArg where
  | encoderMove (enc : EncIx) (time : U32) (dir : Direction)
  | periodicTick
  | pageChangeRequest (page : U32)
  | generateSubModeRequest (kind : U32)
  | unknownTag (tag : U8)
deriving DecidableEq, Repr, Inhabited

/-- One constructor for every row of spec/opcode_table.json. The first group are the operations of R120, in its order, with
the arguments of their rows; the second the bus request-word forms, with the fields their bit patterns leave open (the
channel of a named form is the configured one, so it is no field). -/
inductive Instr where
  | reset (createOk busOk : Bool)
  | encIsr (sigs : U8)
  | audioTick (src : AudioSrc) (adc0 adc1 : U12)
  | toneEdge
  | busComplete (resp : U32)
  | tick
  | setMode (mode : AudioMode)
  | setFrequency (hz : U32)
  | setVolume (vol : U8)
  | busAcquire (timeoutMs : U32)
  | busTransceive (tok word : U32)
  | busRelease (tok : U32)
  | sendUiEvent (arg : UiArg)
  | recvUiEvent
  | recvDiagEvent
  | readOverflow
  | clearOverflow
  | readEncDiag (idx : U8)
  | qdDecode (profile : EncoderProfile) (st : StIx) (sig : Signal)
  | qdHistory (i : EncIx) (st2 : StIx) (sig : Signal) (dir : Direction) (now : U32)
  | ebBridge (moves : List EncoderMove)
  | toneBestDivisor (hz : U32)
  | buswGeneric (last : Bool) (ch : BitVec 4) (payload : U16)
  | buswPotWrite (last : Bool) (addr : BitVec 4) (value : BitVec 9)
  | buswPotRead (last : Bool) (addr : BitVec 4)
  | buswDispCmd (last : Bool) (index : U8)
  | buswDispWrite (last : Bool) (value : U8)
  | buswDispRead (last : Bool)
deriving DecidableEq, Repr, Inhabited

end Sys2Proof
end

