-- ==== Sys2Proof/Config.lean ====
section
/-! DEFINITION. The configuration of rule R7 as one record, and the model's free values. Configuration is no state of the
chip: no step changes it. The record stands in `State` so that a statement over every state is a statement over every
admitted configuration. -/

namespace Sys2Proof

/-- One cell of a transition table: the direction it emits and the next state (R141). -/
abbrev Cell := Direction × StIx

/-- A transition table: a row for each state, a column for each signal 00, 01, 10, 11 (R141). -/
abbrev Table := List (List Cell)

/-- `UI_SEND_POLICY` (R7, R320). -/
inductive UiSendPolicy where
  | nonBlocking
  | blocking
deriving DecidableEq, Repr, Inhabited

/-- `PRIO_ORDER` (R370): no rule reads it. -/
inductive PrioOrder where
  | audioAboveEncoder
  | encoderAboveAudio
deriving DecidableEq, Repr, Inhabited

/-- The four channel numbers of the bus word (R112). -/
structure Channels where
  pot : BitVec 4
  dispCmd : BitVec 4
  dispData : BitVec 4
  dispStatus : BitVec 4
deriving DecidableEq, Repr, Inhabited

/-- R7: "four distinct values in 0..15". -/
def Channels.distinct (c : Channels) : Bool :=
  decide ([c.pot, c.dispCmd, c.dispData, c.dispStatus].Nodup)

/-- The parameters of R7 that may take more than one value (the fixed ones are the constants below). -/
structure Config where
  /-- `ENCODER_PROFILES` (R33). -/
  profiles : Vector EncoderProfile 4
  /-- `ENC_LINE_MAP[i]` (R100): true when the first of the encoder's two switch lines is `line1`. -/
  encLineMap : Vector Bool 4
  /-- `PROFILE_A_AT11_NEXT` (R144): the cell `X`. -/
  profileAAt11Next : StIx
  /-- `PROFILE_A_LOST_ON_00` (R144): the cell `Y`. -/
  profileALostOn00 : StIx
  /-- `PROFILE_B_TABLE` (R146, R147). -/
  profileBTable : Table
  /-- `PRIMARY_DEPTH` (R38). -/
  primaryDepth : Nat
  /-- `DIAG_DEPTH` (R39). -/
  diagDepth : Nat
  /-- `NUM_TASKS` (R9). -/
  numTasks : Nat
  /-- `NUM_PAGES` (R42). -/
  numPages : Nat
  /-- `NUM_SUBMODE_KINDS` (R42). -/
  numSubmodeKinds : Nat
  /-- `UI_SEND_POLICY` (R320). -/
  uiSendPolicy : UiSendPolicy
  /-- `XFER_TIMEOUT` (R221): not counted, read by no rule. -/
  xferTimeout : Nat
  /-- `CH_POT`, `CH_DISP_CMD`, `CH_DISP_DATA`, `CH_DISP_STATUS` (R112). -/
  channels : Channels
  /-- `PWM_PERIOD` (R254, R256). -/
  pwmPeriod : Nat
  /-- `AUDIO_RATE_HZ` (R7): timing only, read by no rule. -/
  audioRateHz : Nat
  /-- `TONE_CLK` in Hz (R293). -/
  toneClk : Nat
  /-- `TONE_DIVISORS` (R293). -/
  toneDivisors : List Nat
  /-- `TONE_CMP_MAX` (R293). -/
  toneCmpMax : Nat
  /-- `TONE_START_PHASE` (R292). -/
  toneStartPhase : Bool
  /-- `PRIO_ORDER` (R370): read by no rule. -/
  prioOrder : PrioOrder
deriving DecidableEq, Repr

/-- `ACQUIRE_DEFAULT_TIMEOUT_MS` (R7, R216). -/
def acquireDefaultTimeoutMs : U32 := 1000

/-- `DAC_MID` (R7, R255). -/
def dacMid : Nat := 2048

/-- `DAC_HALF` (R7, R255). -/
def dacHalf : Nat := 2047

/-- The environment's draws (R14): the `n`-th draw of a run as an unconstrained number, from which a field takes a value of
its own range (notes/assumptions/8.md). It has no body: no proof can know what it is. -/
opaque Config.freeValue : Nat → Nat

/-- The OPEN parameters of the chip (R7), each an unconstrained number or list; `Config.chip` turns them into values that
meet the constraint of R7 (notes/assumptions/7.md). They have no body: "the model takes the parameter as an argument with no default". -/
opaque Config.openNumTasks : Nat

/-- OPEN, see `Config.openNumTasks`. -/
opaque Config.openNumPages : Nat

/-- OPEN, see `Config.openNumTasks`. -/
opaque Config.openNumSubmodeKinds : Nat

/-- OPEN, see `Config.openNumTasks`. -/
opaque Config.openXferTimeout : Nat

/-- OPEN, see `Config.openNumTasks`: the four channel numbers before they are known to be distinct. -/
opaque Config.openChannels : Channels

/-- OPEN, see `Config.openNumTasks`. -/
opaque Config.openPwmPeriod : Nat

/-- OPEN, see `Config.openNumTasks`. -/
opaque Config.openToneClk : Nat

/-- OPEN, see `Config.openNumTasks`: the first divisor, so that the list is not empty. -/
opaque Config.openToneDivisor : Nat

/-- OPEN, see `Config.openNumTasks`: the other divisors. -/
opaque Config.openToneDivisors : List Nat

/-- OPEN, see `Config.openNumTasks`. -/
opaque Config.openToneCmpMax : Nat

/-- OPEN, see `Config.openNumTasks`: which priority order the two interrupts have. -/
opaque Config.openPrioOrder : PrioOrder

/-- OPEN, see `Config.openNumTasks`: the wiring of each encoder's two lines. -/
opaque Config.openEncLineMap : Vector Bool 4

end Sys2Proof
end

