-- ==== Sys2Proof/Machine/Tables.lean ====
section
/-! DEFINITION. The transition tables of the quadrature decoder as data indexed by state and signal (R140, R141, R144, R147),
and the properties that rule R146 asks of any Profile B table. -/

namespace Sys2Proof.Machine

/-- Profile A's table `T_A` (R144), seven rows; `x` is `PROFILE_A_AT11_NEXT` and `y` is `PROFILE_A_LOST_ON_00`. -/
def tableA (x y : StIx) : Table :=
  [ [(none, y),         (none, 0), (none, 0), (none, 4)],
    [(none, 1),         (none, 2), (none, 3), (none, 4)],
    [(none, 1),         (none, 2), (none, 0), (some .cw, x)],
    [(none, 1),         (none, 0), (none, 3), (some .ccw, x)],
    [(none, 1),         (none, 5), (none, 6), (none, 4)],
    [(some .ccw, 1),    (none, 5), (none, 0), (none, 4)],
    [(some .cw, 1),     (none, 0), (none, 6), (none, 4)] ]

/-- The default `PROFILE_B_TABLE`, `T_B` (R147), eight rows. -/
def tableB : Table :=
  [ [(none, 1),         (none, 0), (none, 0), (none, 0)],
    [(none, 1),         (none, 2), (none, 5), (none, 0)],
    [(none, 1),         (none, 2), (none, 0), (none, 3)],
    [(none, 0),         (none, 2), (none, 4), (none, 3)],
    [(some .cw, 1),     (none, 0), (none, 4), (none, 3)],
    [(none, 1),         (none, 0), (none, 5), (none, 6)],
    [(none, 0),         (none, 7), (none, 5), (none, 6)],
    [(some .ccw, 1),    (none, 7), (none, 0), (none, 6)] ]

/-- The table of a profile under a configuration (R143). -/
def tableOf (cfg : Config) : EncoderProfile → Table
  | .a => tableA cfg.profileAAt11Next cfg.profileALostOn00
  | .b => cfg.profileBTable

/-- The number of legal states of a profile: 7 for A, 8 for B (R32). -/
def stateCount : EncoderProfile → Nat
  | .a => 7
  | .b => 8

/-- The cell `T[st][sig]`; there is none for a state that is no row of the table. -/
def Table.cell (t : Table) (st : StIx) (sig : Signal) : Option Cell :=
  (t[st.val]?).bind fun row => row[sig.toNat]?

/-- The directions a table emits along a list of samples, one for each sample, and the state it ends in; it stops at a missing cell. -/
def Table.run (t : Table) : StIx → List Signal → List Direction × StIx
  | st, [] => ([], st)
  | st, sig :: rest =>
    match Table.cell t st sig with
    | none => ([], st)
    | some (dir, next) =>
      let r := Table.run t next rest
      (dir :: r.1, r.2)

/-- The other direction. -/
def flipTurn : Turn → Turn
  | .cw => .ccw
  | .ccw => .cw

/-- Where an encoder stands since its last sample of 00, from its samples alone: at 00; out on single-line steps, with the signal it left to
and the present one; or lost, after a jump of both lines or before any sample of 00. -/
inductive Excursion where
  | lost
  | rest
  | out (first cur : Signal)
deriving DecidableEq, Repr, Inhabited

/-- The two signals differ in exactly one line. -/
def oneLine (p q : Signal) : Bool := decide (p ^^^ q = 1 ∨ p ^^^ q = 2)

/-- The sample is the present signal again or one single-line step from it; nothing is after a loss. -/
def Excursion.steady : Excursion → Signal → Bool
  | .lost, _ => false
  | .rest, sig => decide (sig = 0) || oneLine 0 sig
  | .out _ cur, sig => decide (sig = cur) || oneLine cur sig

/-- Where the encoder stands after a sample. -/
def Excursion.next (x : Excursion) (sig : Signal) : Excursion :=
  if sig = 0 then .rest
  else if x.steady sig then
    match x with
    | .lost => .lost
    | .rest => .out sig sig
    | .out first _ => .out first sig
  else .lost

/-- The direction of the full path that a sample completes (R146): `d` for 00, 01, 11, 10, 00, the other for its mirror, steps back and forth
within it left out. -/
def Excursion.completes (d : Turn) (x : Excursion) (sig : Signal) : Direction :=
  if sig = 0 then
    if x = .out 1 2 then some d
    else if x = .out 2 1 then some (flipTurn d)
    else none
  else none

/-- The four signals. -/
def allSignals : List Signal := [0, 1, 2, 3]

/-- A table's state beside where its encoder stands. -/
abbrev WalkPoint := StIx × Excursion

/-- The points that one admitted sample leads to. -/
def Table.walkNext (t : Table) (admits : Excursion → Signal → Bool) (p : WalkPoint) : List WalkPoint :=
  (allSignals.filter (admits p.2)).filterMap fun sig => (Table.cell t p.1 sig).map fun c => (c.2, p.2.next sig)

/-- The points that at most `n` admitted samples reach: `front` are those reached last, `seen` all so far. -/
def Table.walkPoints (t : Table) (admits : Excursion → Signal → Bool) : Nat → List WalkPoint → List WalkPoint → List WalkPoint
  | 0, _, seen => seen
  | n + 1, front, seen =>
    let new := (front.flatMap (Table.walkNext t admits)).dedup.filter fun p => !seen.contains p
    Table.walkPoints t admits n new (seen ++ new)

/-- Along every sequence of admitted samples from a starting point, what the table emits stands in the relation `ok` to the full path that the
sample completes. The points are found by search; that they contain the starting points and are closed under admitted samples is checked. There are
64 points, so 64 rounds find them all. -/
def Table.walksOk (t : Table) (admits : Excursion → Signal → Bool) (ok : Direction → Direction → Bool) (d : Turn)
    (starts : List WalkPoint) : Bool :=
  let points := Table.walkPoints t admits 64 starts starts
  starts.all (fun p => points.contains p) &&
  points.all fun p => allSignals.all fun sig => !admits p.2 sig ||
    match Table.cell t p.1 sig with
    | none => false
    | some (dir, next) => points.contains (next, p.2.next sig) && ok dir (p.2.completes d sig)

/-- The table emits at a full path and nowhere else, whatever the samples are, jumps and repeats among them, from state 1 at 00 and from the lost state 0
(R146 B4, B5). -/
def Table.emitsOnlyAtFullPaths (t : Table) (d : Turn) : Bool :=
  Table.walksOk t (fun _ _ => true) (fun dir full => dir.isNone || decide (dir = full)) d [(1, .rest), (0, .lost)]

/-- From state 1 at 00, on single-line steps and repeated samples, the table emits at every full path, however often the encoder steps back and forth within
it (R146 B1 to B3, B5). -/
def Table.emitsAtEveryFullPath (t : Table) (d : Turn) : Bool :=
  Table.walksOk t Excursion.steady (fun dir full => decide (dir = full)) d [(1, .rest)]

/-- State 0 is the lost state (R146), "from which the decoder re-synchronizes" (R16): on a sample of 00, profile B's only rest position, silently to
state 1, which is "at 00". -/
def Table.resynchronizes (t : Table) : Bool := decide (Table.cell t 0 0 = some (none, 1))

/-- State 0 is the lost state (R146), "entered on any unexpected jump" (R16): wherever steady samples from state 1 at 00 have led, a sample that changes both
lines leads silently to it. -/
def Table.jumpsGetLost (t : Table) : Bool :=
  (Table.walkPoints t Excursion.steady 64 [(1, .rest)] [(1, .rest)]).all fun p => allSignals.all fun sig =>
    p.2.steady sig || decide (Table.cell t p.1 sig = some (none, 0))

/-- R146: eight rows of four cells; state 0 re-synchronizes and takes every jump; one direction for the full path and the other for its mirror; emissions at full paths, at all of them, and at nothing
else (B1 to B5); a direction stands only in column 00 (B6). DEDUCED (notes/assumptions/13.md). -/
def profileBTableOk (t : Table) : Bool :=
  decide (t.length = 8) && t.all (fun row => decide (row.length = 4)) && Table.resynchronizes t && Table.jumpsGetLost t &&
  ([Turn.cw, Turn.ccw].any fun d => Table.emitsOnlyAtFullPaths t d && Table.emitsAtEveryFullPath t d) &&
  t.all (fun row => row.tail.all fun c => c.1.isNone)

end Sys2Proof.Machine

namespace Sys2Proof

/-- The constraints R7 puts on the configuration. -/
def Config.wf (cfg : Config) : Bool :=
  decide (cfg.profiles.toList.count .a = 2) && decide (cfg.profiles.toList.count .b = 2) &&
  decide (cfg.profileAAt11Next = 4 ∨ cfg.profileAAt11Next = 1) &&
  decide (cfg.profileALostOn00 = 0 ∨ cfg.profileALostOn00 = 1) &&
  Machine.profileBTableOk cfg.profileBTable &&
  decide (1 ≤ cfg.primaryDepth) && decide (1 ≤ cfg.diagDepth) &&
  decide (1 ≤ cfg.numTasks) && decide (1 ≤ cfg.numPages) && decide (1 ≤ cfg.numSubmodeKinds) &&
  decide (1 ≤ cfg.xferTimeout) && cfg.channels.distinct &&
  decide (4 ≤ cfg.pwmPeriod) && decide (1 ≤ cfg.toneClk) &&
  !cfg.toneDivisors.isEmpty && cfg.toneDivisors.all (fun d => decide (1 ≤ d)) &&
  decide (2 ≤ cfg.toneCmpMax)

end Sys2Proof
end

