-- ==== Sys2Proof/Machine/Chip.lean ====
section
/-! DEFINITION. The configuration the machine has after reset: every parameter with a default at its default (R7), every OPEN
parameter unknown within its constraint. -/

namespace Sys2Proof.Machine

/-- Four distinct channel numbers: the given ones when they are distinct. -/
def distinctOr (c : Channels) : Channels :=
  if c.distinct then c else ⟨0, 1, 2, 3⟩

/-- The configuration of the chip (R7): defaults as in the table of R7; an OPEN parameter is whatever the constants of
Sys2Proof/Config.lean are, moved into the range R7 gives it. -/
def chip : Config where
  profiles := #v[.a, .a, .b, .b]
  encLineMap := Config.openEncLineMap
  profileAAt11Next := 4
  profileALostOn00 := 0
  profileBTable := tableB
  primaryDepth := 10
  diagDepth := 5
  numTasks := Config.openNumTasks + 1
  numPages := Config.openNumPages + 1
  numSubmodeKinds := Config.openNumSubmodeKinds + 1
  uiSendPolicy := .nonBlocking
  xferTimeout := Config.openXferTimeout + 1
  channels := distinctOr Config.openChannels
  pwmPeriod := Config.openPwmPeriod + 4
  audioRateHz := 40000
  toneClk := Config.openToneClk + 1
  toneDivisors := (Config.openToneDivisor + 1) :: Config.openToneDivisors.map (· + 1)
  toneCmpMax := Config.openToneCmpMax + 2
  toneStartPhase := false
  prioOrder := Config.openPrioOrder

end Sys2Proof.Machine
end

