-- ==== Sys2Proof/Machine/BusWord.lean ====
section
/-! DEFINITION. The 32-bit bus request word (R110 to R117): its reserved bits, its fields, its assembly, and the payload patterns
that make a word one of the named forms of spec/opcode_table.json. -/

namespace Sys2Proof.Machine

/-- Bits 31..25 and 23..20 are clear (R111). -/
def reservedClear (w : U32) : Bool := decide (w &&& 0xFEF00000#32 = 0#32)

/-- `LAST = w[24]` (R112). -/
def wordLast (w : U32) : Bool := w.getLsbD 24

/-- `CH = w[19:16]` (R112). -/
def wordCh (w : U32) : BitVec 4 := w.extractLsb' 16 4

/-- `PAYLOAD = w[15:0]` (R112). -/
def wordPayload (w : U32) : U16 := w.extractLsb' 0 16

/-- `w = (LAST << 24) | (CH << 16) | PAYLOAD` (R112). -/
def assembleWord (last : Bool) (ch : BitVec 4) (payload : U16) : U32 :=
  ((BitVec.ofBool last).setWidth 32 <<< 24) ||| (ch.setWidth 32 <<< 16) ||| payload.setWidth 32

/-- `PAYLOAD = (addr << 12) | value` of a potentiometer write (R113). -/
def potWritePayload (addr : BitVec 4) (value : BitVec 9) : U16 := (addr.setWidth 16 <<< 12) ||| value.setWidth 16

/-- `PAYLOAD = (addr << 12) | 0x0C00` of a potentiometer read (R114). -/
def potReadPayload (addr : BitVec 4) : U16 := (addr.setWidth 16 <<< 12) ||| 0x0C00#16

/-- `0x8000 | index`, the payload of a display command-select (R115). -/
def dispCmdPayload (index : U8) : U16 := 0x8000#16 ||| index.setWidth 16

/-- `0x0000 | value`, the payload of a display data write (R116). -/
def dispWritePayload (value : U8) : U16 := 0x0000#16 ||| value.setWidth 16

/-- Display data read payload (R117). -/
def dispReadPayload : U16 := 0x4000

/-- The payload of channel `ch` is that of a potentiometer write (R113). -/
def isPotWrite (c : Channels) (ch : BitVec 4) (p : U16) : Bool :=
  decide (ch = c.pot) && decide (p.extractLsb' 9 3 = 0#3)

/-- The payload of channel `ch` is that of a potentiometer read (R114). -/
def isPotRead (c : Channels) (ch : BitVec 4) (p : U16) : Bool :=
  decide (ch = c.pot) && decide (p.extractLsb' 0 12 = 0xC00#12)

/-- The payload of channel `ch` is that of a display command-select (R115). -/
def isDispCmd (c : Channels) (ch : BitVec 4) (p : U16) : Bool :=
  decide (ch = c.dispCmd) && decide (p.extractLsb' 8 8 = 0x80#8)

/-- The payload of channel `ch` is that of a display data write (R116). -/
def isDispWrite (c : Channels) (ch : BitVec 4) (p : U16) : Bool :=
  decide (ch = c.dispData) && decide (p.extractLsb' 8 8 = 0x00#8)

/-- The payload of channel `ch` is that of a display data read (R117). -/
def isDispRead (c : Channels) (ch : BitVec 4) (p : U16) : Bool :=
  decide (ch = c.dispData) && decide (p = dispReadPayload)

/-- The word is one of the named forms; every other well-formed word is BUSW_GENERIC only (R118). -/
def isNamedForm (c : Channels) (ch : BitVec 4) (p : U16) : Bool :=
  isPotWrite c ch p || isPotRead c ch p || isDispCmd c ch p || isDispWrite c ch p || isDispRead c ch p

end Sys2Proof.Machine
end

