-- ==== Sys2Proof/WellFormed.lean ====
section
/-! DEFINITION. When an operand is in the range its row gives it (R122, R125): the static check on instructions. -/

namespace Sys2Proof

/-- A UiEvent's payload is in range (R42, R122). -/
def UiEvent.inRange (cfg : Config) : UiEvent → Bool
  | .encoderMove _ => true
  | .periodicTick => true
  | .pageChangeRequest page => decide (page.toNat < cfg.numPages)
  | .generateSubModeRequest kind => decide (kind.toNat < cfg.numSubmodeKinds)

/-- SEND_UI_EVENT's argument: a payload in range (a move's direction is 1 or 2), or a tag that is unknown, that is above 3
(R104, R105, R122). -/
def UiArg.wf (cfg : Config) : UiArg → Bool
  | .encoderMove _ _ dir => dir.isSome
  | .periodicTick => true
  | .pageChangeRequest page => decide (page.toNat < cfg.numPages)
  | .generateSubModeRequest kind => decide (kind.toNat < cfg.numSubmodeKinds)
  | .unknownTag tag => decide (3 < tag.toNat)

/-- A decoder state index in its profile's range (R32, U1). -/
def legalState (p : EncoderProfile) (st : StIx) : Bool :=
  decide (st.val < Machine.stateCount p)

/-- EB_BRIDGE's operand: up to four moves, at most one for each encoder (R182). -/
def movesWf (ms : List EncoderMove) : Bool :=
  decide (ms.length ≤ 4) && decide ((ms.map EncoderMove.enc).Nodup)

/-- Every operand is in the range its row of spec/opcode_table.json gives it. -/
def Instr.wf (cfg : Config) : Instr → Bool
  | .reset _ _ => true
  | .encIsr _ => true
  | .audioTick _ _ _ => true
  | .toneEdge => true
  | .busComplete _ => true
  | .tick => true
  | .setMode _ => true
  | .setFrequency _ => true
  | .setVolume _ => true
  | .busAcquire _ => true
  | .busTransceive _ word => Machine.reservedClear word
  | .busRelease _ => true
  | .sendUiEvent arg => arg.wf cfg
  | .recvUiEvent => true
  | .recvDiagEvent => true
  | .readOverflow => true
  | .clearOverflow => true
  | .readEncDiag idx => decide (idx.toNat < 4)
  | .qdDecode profile st _ => legalState profile st
  | .qdHistory i st2 _ _ _ => legalState cfg.profiles[i] st2
  | .ebBridge moves => movesWf moves
  | .toneBestDivisor hz => decide (hz ≠ 0)
  | .buswGeneric _ ch payload => !Machine.isNamedForm cfg.channels ch payload
  | .buswPotWrite _ _ _ => true
  | .buswPotRead _ _ => true
  | .buswDispCmd _ _ => true
  | .buswDispWrite _ _ => true
  | .buswDispRead _ => true

end Sys2Proof
end

