-- ==== Sys2Proof/Decode.lean ====
section
/-! DEFINITION. Decoding and encoding. An instruction comes in one of two written forms: an operation descriptor, read as one
number whose bits 7..0 are the operation code of R120 and whose arguments follow from bit 8 upwards in the row's order, each at its
width; or a 32-bit bus request word (R110). The packing of a descriptor's arguments is the model's own (notes/assumptions/2.md). -/

namespace Sys2Proof

/-- The written form of an instruction. -/
inductive Code where
  /-- An operation descriptor `(code, args)` (R121), packed into one number. -/
  | descriptor (d : Nat)
  /-- A bus request word (R110). -/
  | busWord (w : U32)
deriving DecidableEq, Repr, Inhabited

/-- Why a written form spells no instruction. -/
inductive DecodeError where
  /-- The operation code is not in the map of R120 (R121, U5). -/
  | unknownCode (code : Nat)
  /-- A bit above the last argument is set, or a payload stands where the tag has none. -/
  | reservedBits
  /-- An argument field holds a code that names no value: direction 3, a move of EB_BRIDGE with direction 0, audio source 3, more than four moves (R102, R104, R106, R182). -/
  | reservedValue
  /-- A bus word has one of bits 31..25 or 23..20 set (R111, U3). -/
  | reservedWordBits
deriving DecidableEq, Repr, Inhabited

/-- The answer of the decoder. -/
abbrev Decoded := Except DecodeError Instr

/-- `None = 0`, `CW = 1`, `CCW = 2` (R102). -/
def directionCode : Direction → Nat
  | none => 0
  | some .cw => 1
  | some .ccw => 2

/-- The direction of a 2-bit code; 3 is reserved (R102, U2). -/
def directionOf : Nat → Option Direction
  | 0 => some none
  | 1 => some (some .cw)
  | 2 => some (some .ccw)
  | _ => none

/-- AudioMode codes (R103). -/
def modeCode : AudioMode → Nat
  | .off => 0
  | .adcPassthrough => 1
  | .toneValue => 2
  | .toneFrequency => 3

/-- The mode of a 2-bit code: every code names one (R103, R122). -/
def modeOf : Nat → AudioMode
  | 0 => .off
  | 1 => .adcPassthrough
  | 2 => .toneValue
  | _ => .toneFrequency

/-- Audio source codes (R106). -/
def srcCode : AudioSrc → Nat
  | .expected => 0
  | .wrongSource => 1
  | .dupOrLost => 2

/-- The source of a 2-bit code; 3 names none. -/
def srcOf : Nat → Option AudioSrc
  | 0 => some .expected
  | 1 => some .wrongSource
  | 2 => some .dupOrLost
  | _ => none

/-- One bit for the profile: 0 is A, 1 is B. -/
def profileCode : EncoderProfile → Nat
  | .a => 0
  | .b => 1

/-- The profile of a bit. -/
def profileOf : Nat → EncoderProfile
  | 0 => .a
  | _ => .b

/-- The UiEvent tags 0 to 3 (R104); any other tag is itself. -/
def uiTag : UiArg → Nat
  | .encoderMove _ _ _ => 0
  | .periodicTick => 1
  | .pageChangeRequest _ => 2
  | .generateSubModeRequest _ => 3
  | .unknownTag tag => tag.toNat

/-- The three fields of a move in 36 bits: enc 1..0, time 33..2, dir 35..34. -/
def encodeMoveFields (enc : EncIx) (time : U32) (dir : Direction) : Nat :=
  enc.val + 4 * (time.toNat + 4294967296 * directionCode dir)

/-- A move in 36 bits. -/
def encodeMove (m : EncoderMove) : Nat := encodeMoveFields m.enc m.time (some m.dir)

/-- The direction field of a move's 36 bits; code 3 is reserved (R102). -/
def moveDirOf (r : Nat) : Option Direction := directionOf (r / 17179869184 % 4)

/-- The move of 36 bits; a direction of None or of the reserved code is no move's (R41, R102). -/
def decodeMove (r : Nat) : Option EncoderMove :=
  match moveDirOf r with
  | some (some dir) => some { enc := Fin.ofNat 4 r, time := BitVec.ofNat 32 (r / 4), dir := dir }
  | _ => none

/-- A list of moves, 36 bits each, the first lowest. -/
def encodeMoves : List EncoderMove → Nat
  | [] => 0
  | m :: ms => encodeMove m + 68719476736 * encodeMoves ms

/-- `n` moves of 36 bits each, and nothing above them. -/
def decodeMoves : Nat → Nat → Except DecodeError (List EncoderMove)
  | 0, r => if r = 0 then .ok [] else .error .reservedBits
  | n + 1, r =>
    match decodeMove (r % 68719476736), decodeMoves n (r / 68719476736) with
    | none, _ => .error .reservedValue
    | some _, .error e => .error e
    | some m, .ok ms => .ok (m :: ms)

/-- The payload of SEND_UI_EVENT for each tag (R104). -/
def encodePayload : UiArg → Nat
  | .encoderMove enc time dir => encodeMoveFields enc time dir
  | .periodicTick => 0
  | .pageChangeRequest page => page.toNat
  | .generateSubModeRequest kind => kind.toNat
  | .unknownTag _ => 0

/-- SEND_UI_EVENT's arguments: the tag in eight bits, then the payload of that tag. A tag above 3 is decoded whatever stands in the
payload, since R362 has the tag checked first. -/
def decodeUiArg (r : Nat) : Decoded :=
  let payload := r / 256
  match r % 256 with
  | 0 =>
    match moveDirOf payload with
    | none => .error .reservedValue
    | some dir => .ok (.sendUiEvent (.encoderMove (Fin.ofNat 4 payload) (BitVec.ofNat 32 (payload / 4)) dir))
  | 1 => if payload = 0 then .ok (.sendUiEvent .periodicTick) else .error .reservedBits
  | 2 =>
    if payload / 4294967296 = 0 then .ok (.sendUiEvent (.pageChangeRequest (BitVec.ofNat 32 payload)))
    else .error .reservedBits
  | 3 =>
    if payload / 4294967296 = 0 then .ok (.sendUiEvent (.generateSubModeRequest (BitVec.ofNat 32 payload)))
    else .error .reservedBits
  | tag => .ok (.sendUiEvent (.unknownTag (BitVec.ofNat 8 tag)))

/-- The arguments `r` fit below `2 ^ width`, so that nothing stands above the last of them. -/
def within (width r : Nat) (k : Decoded) : Decoded :=
  if r / 2 ^ width = 0 then k else .error .reservedBits

/-- The instruction of an operation code and its packed arguments (R120, R121). -/
def decodeArgs (code r : Nat) : Decoded :=
  match code with
  | 0x00 => within 2 r (.ok (.reset (decide (r % 2 = 1)) (decide (r / 2 % 2 = 1))))
  | 0x01 => within 8 r (.ok (.encIsr (BitVec.ofNat 8 r)))
  | 0x02 => within 26 r (match srcOf (r % 4) with
      | none => .error .reservedValue
      | some src => .ok (.audioTick src (BitVec.ofNat 12 (r / 4)) (BitVec.ofNat 12 (r / 16384))))
  | 0x03 => within 0 r (.ok .toneEdge)
  | 0x04 => within 32 r (.ok (.busComplete (BitVec.ofNat 32 r)))
  | 0x05 => within 0 r (.ok .tick)
  | 0x10 => within 2 r (.ok (.setMode (modeOf (r % 4))))
  | 0x11 => within 32 r (.ok (.setFrequency (BitVec.ofNat 32 r)))
  | 0x12 => within 8 r (.ok (.setVolume (BitVec.ofNat 8 r)))
  | 0x20 => within 32 r (.ok (.busAcquire (BitVec.ofNat 32 r)))
  | 0x21 => within 64 r (.ok (.busTransceive (BitVec.ofNat 32 r) (BitVec.ofNat 32 (r / 4294967296))))
  | 0x22 => within 32 r (.ok (.busRelease (BitVec.ofNat 32 r)))
  | 0x30 => within 44 r (decodeUiArg r)
  | 0x31 => within 0 r (.ok .recvUiEvent)
  | 0x32 => within 0 r (.ok .recvDiagEvent)
  | 0x33 => within 0 r (.ok .readOverflow)
  | 0x34 => within 0 r (.ok .clearOverflow)
  | 0x35 => within 8 r (.ok (.readEncDiag (BitVec.ofNat 8 r)))
  | 0x50 => within 6 r (.ok (.qdDecode (profileOf (r % 2)) (Fin.ofNat 8 (r / 2)) (BitVec.ofNat 2 (r / 16))))
  | 0x51 => within 41 r (match directionOf (r / 128 % 4) with
      | none => .error .reservedValue
      | some dir => .ok (.qdHistory (Fin.ofNat 4 r) (Fin.ofNat 8 (r / 4)) (BitVec.ofNat 2 (r / 32)) dir (BitVec.ofNat 32 (r / 512))))
  | 0x52 => if 4 < r % 8 then .error .reservedValue
      else match decodeMoves (r % 8) (r / 8) with
        | .error e => .error e
        | .ok ms => .ok (.ebBridge ms)
  | 0x53 => within 32 r (.ok (.toneBestDivisor (BitVec.ofNat 32 r)))
  | _ => .error (.unknownCode code)

/-- The instruction of an operation descriptor: "a decoder tells the operation by `code` alone" (R121). -/
def decodeDescriptor (d : Nat) : Decoded := decodeArgs (d % 256) (d / 256)

/-- The row a well-formed bus word belongs to: the most specific one, the channel telling the forms apart (R113 to R118). -/
def nameBusWord (c : Channels) (last : Bool) (ch : BitVec 4) (p : U16) : Instr :=
  if Machine.isPotWrite c ch p then .buswPotWrite last (p.extractLsb' 12 4) (p.extractLsb' 0 9)
  else if Machine.isPotRead c ch p then .buswPotRead last (p.extractLsb' 12 4)
  else if Machine.isDispCmd c ch p then .buswDispCmd last (p.extractLsb' 0 8)
  else if Machine.isDispWrite c ch p then .buswDispWrite last (p.extractLsb' 0 8)
  else if Machine.isDispRead c ch p then .buswDispRead last
  else .buswGeneric last ch p

/-- The instruction of a bus request word; one with a reserved bit set has no meaning (R111). No row spells such a word, so a line that holds
it alone is refused here, before the check of ownership that R362 puts first in BUS_TRANSCEIVE: DESIGN CHOICE, safe (log entry 5). -/
def decodeBusWord (c : Channels) (w : U32) : Decoded :=
  if Machine.reservedClear w then .ok (nameBusWord c (Machine.wordLast w) (Machine.wordCh w) (Machine.wordPayload w))
  else .error .reservedWordBits

/-- The decoder. -/
def decode (c : Channels) : Code → Decoded
  | .descriptor d => decodeDescriptor d
  | .busWord w => decodeBusWord c w

/-- A descriptor of an operation code and packed arguments. -/
def pack (code args : Nat) : Code := .descriptor (code + 256 * args)

/-- The written form of an instruction. -/
def encode (c : Channels) : Instr → Code
  | .reset createOk busOk => pack 0x00 (createOk.toNat + 2 * busOk.toNat)
  | .encIsr sigs => pack 0x01 sigs.toNat
  | .audioTick src adc0 adc1 => pack 0x02 (srcCode src + 4 * (adc0.toNat + 4096 * adc1.toNat))
  | .toneEdge => pack 0x03 0
  | .busComplete resp => pack 0x04 resp.toNat
  | .tick => pack 0x05 0
  | .setMode mode => pack 0x10 (modeCode mode)
  | .setFrequency hz => pack 0x11 hz.toNat
  | .setVolume vol => pack 0x12 vol.toNat
  | .busAcquire timeoutMs => pack 0x20 timeoutMs.toNat
  | .busTransceive tok word => pack 0x21 (tok.toNat + 4294967296 * word.toNat)
  | .busRelease tok => pack 0x22 tok.toNat
  | .sendUiEvent arg => pack 0x30 (uiTag arg + 256 * encodePayload arg)
  | .recvUiEvent => pack 0x31 0
  | .recvDiagEvent => pack 0x32 0
  | .readOverflow => pack 0x33 0
  | .clearOverflow => pack 0x34 0
  | .readEncDiag idx => pack 0x35 idx.toNat
  | .qdDecode profile st sig => pack 0x50 (profileCode profile + 2 * (st.val + 8 * sig.toNat))
  | .qdHistory i st2 sig dir now =>
    pack 0x51 (i.val + 4 * (st2.val + 8 * (sig.toNat + 4 * (directionCode dir + 4 * now.toNat))))
  | .ebBridge moves => pack 0x52 (moves.length + 8 * encodeMoves moves)
  | .toneBestDivisor hz => pack 0x53 hz.toNat
  | .buswGeneric last ch payload => .busWord (Machine.assembleWord last ch payload)
  | .buswPotWrite last addr value => .busWord (Machine.assembleWord last c.pot (Machine.potWritePayload addr value))
  | .buswPotRead last addr => .busWord (Machine.assembleWord last c.pot (Machine.potReadPayload addr))
  | .buswDispCmd last index => .busWord (Machine.assembleWord last c.dispCmd (Machine.dispCmdPayload index))
  | .buswDispWrite last value => .busWord (Machine.assembleWord last c.dispData (Machine.dispWritePayload value))
  | .buswDispRead last => .busWord (Machine.assembleWord last c.dispData Machine.dispReadPayload)

/-- The written form of an opcode-table row's word: a row of 32 bits is a bus word, every other row a descriptor. -/
def codeOfTableWord (nbits w : Nat) : Code :=
  if nbits = 32 then .busWord (BitVec.ofNat 32 w) else .descriptor (w % 2 ^ nbits)

/-- What the decoder reads from a word numbered as spec/opcode_table.json numbers it, under the chip's channel numbers. -/
def decodeTableWord (nbits w : Nat) : Option Instr :=
  match decode Machine.chip.channels (codeOfTableWord nbits w) with
  | .ok i => some i
  | .error _ => none

end Sys2Proof
end

