-- ==== Sys2Proof/Machine/State.lean ====
section
/-! DEFINITION. The machine state (10_state.md, R30) as plain data, the reasons a step can stop, and the state after reset. -/

namespace Sys2Proof.Machine

/-- An entry of an encoder's history ring (R35). -/
structure HistEntry where
  st : StIx
  sig : Signal
  dir : Direction
  dt : U32
deriving DecidableEq, Repr, Inhabited

/-- The reset value of a history entry (R35). -/
def HistEntry.zero : HistEntry := { st := 0, sig := 0, dir := none, dt := 0 }

/-- The state of one encoder (R32, R34, R35); `hist[0]` is the newest entry. -/
structure EncState where
  st : StIx
  lastChange : U32
  hist : Vector HistEntry 10
deriving DecidableEq, Repr

/-- The history ring at reset (R35). -/
def histZero : Vector HistEntry 10 :=
  #v[.zero, .zero, .zero, .zero, .zero, .zero, .zero, .zero, .zero, .zero]

/-- The reset value of an encoder (R394). -/
def EncState.zero : EncState := { st := 0, lastChange := 0, hist := histZero }

/-- The serial transfer slot (R44). -/
inductive Xfer where
  | idle
  | inFlight
  | done
  | stale
deriving DecidableEq, Repr, Inhabited

/-- The tone timer (R58 to R61). -/
structure Tone where
  freq : U32
  running : Bool
  div : Nat
  cmp : Nat
  phase : Bool
deriving DecidableEq, Repr, Inhabited

/-- The fatal codes (R351). -/
inductive FatalCode where
  | audioSourceMismatch
  | unknownEventTag
  | resourceCreationFailed
  | busReleaseFailed
  | transceiveWithoutOwnership
  | startupBusUnavailable
deriving DecidableEq, Repr, Inhabited

/-- The hardware-visible events of the observation trace (R72). -/
inductive Event where
  | dacWrite (v : U12)
  | dutyWrite (d : Nat)
  | pwmEnable
  | pwmDisable
  | timerStop
  | timerStart (div cmp : Nat)
  | busTx (w : U32)
  | yieldRequest
  | diagSignal (c : FatalCode)
deriving DecidableEq, Repr, Inhabited

/-- What READ_ENC_DIAG has read so far, and its result (R160). -/
structure Snapshot where
  st : StIx
  hist : Vector HistEntry 10
  lastChange : U32
deriving DecidableEq, Repr

/-- A snapshot nothing has been read into. -/
def Snapshot.empty : Snapshot := { st := 0, hist := histZero, lastChange := 0 }

/-- The result of an operation (R120, R360) or of a function of R120; `none` also where the operation gives none. -/
inductive Result where
  | none
  /-- `Ok(tok)` of BUS_ACQUIRE. -/
  | okTok (t : Nat)
  /-- `TimeoutError` of BUS_ACQUIRE. -/
  | timeoutError
  /-- `Ok(r)` of BUS_TRANSCEIVE. -/
  | okResp (r : U32)
  /-- `XferTimeout(r)` of BUS_TRANSCEIVE. -/
  | xferTimeout (r : U32)
  /-- `ok` of SEND_UI_EVENT. -/
  | sent
  /-- `full` of SEND_UI_EVENT. -/
  | full
  /-- What RECV_UI_EVENT received. -/
  | event (ev : UiEvent)
  /-- What RECV_DIAG_EVENT received. -/
  | move (m : EncoderMove)
  /-- What READ_OVERFLOW read. -/
  | flag (b : Bool)
  /-- What READ_ENC_DIAG read. -/
  | snapshot (s : Snapshot)
  /-- `(st', dir)` of QD_DECODE. -/
  | decoded (st : StIx) (dir : Direction)
  /-- The yield flag of EB_BRIDGE. -/
  | yieldFlag (y : Bool)
  /-- `(div, cmp)` of TONE_BEST_DIVISOR. -/
  | divisor (div cmp : Nat)
deriving DecidableEq, Repr

/-- The values a task's operation has computed so far (R71): the micro-step of SET_MODE's nested SET_FREQUENCY call (R261), and
READ_ENC_DIAG's snapshot (R160). -/
structure Locals where
  nested : Nat
  snap : Snapshot
deriving DecidableEq, Repr

/-- The locals an operation starts with. -/
def Locals.empty : Locals := { nested := 0, snap := Snapshot.empty }

/-- A task's control state (R71). The operation in progress carries its arguments; `none` is idle. -/
structure TaskCtl where
  op : Option Instr
  step : Nat
  locals : Locals
  result : Result
deriving DecidableEq, Repr

/-- An idle task after reset (R394). -/
def TaskCtl.idle : TaskCtl := { op := none, step := 0, locals := Locals.empty, result := .none }

/-- The agents (R9), and the environment, which issues RESET (R120). -/
inductive Agent where
  | environment
  | encIsr
  | audioIsr
  | task (t : Nat)
  | busDev
  | toneTimer
  | tickSrc
deriving DecidableEq, Repr, Inhabited

/-- Which agent is taking the present step and what the environment chooses at it: `late` takes (expire) or (timeout) of a wait
rather than (grant) or (ready) (R212, R221); `order` numbers the permutation of R181 (DESIGN CHOICE, notes/assumptions/3.md, 14.md). -/
structure Offer where
  agent : Agent
  late : Bool
  order : Fin 24
deriving DecidableEq, Repr, Inhabited

/-- What a line of the schedule asks of its agent: to take up a written instruction, or the next micro-step of the operation in
progress (R123: `T<n>.<step>`). -/
inductive LineBody where
  | issue (c : Code)
  | resume
deriving DecidableEq, Repr, Inhabited

/-- A line of a program (R123): an agent, what it does, and the choices at that step. -/
structure Line where
  offer : Offer
  body : LineBody
deriving DecidableEq, Repr, Inhabited

/-- The machine state. The fields up to `trace` are the record `S` of R30. The last six are the MODEL's own: no rule of the spec reads or
writes them as chip state. -/
structure State where
  enc : Vector EncState 4
  qPrimary : List UiEvent
  qDiag : List EncoderMove
  overflow : Bool
  owner : Option Nat
  xfer : Xfer
  txReg : U32
  rxReg : U32
  mode : AudioMode
  volume : U8
  toneValue : U16
  pwmEnabled : Bool
  dacOut : U12
  pwmDuty : Nat
  tone : Tone
  tick : U32
  task : List TaskCtl
  halted : Option FatalCode
  trace : List Event
  /-- The configuration (R7): no step writes it. -/
  cfg : Config
  /-- RESET has happened: before it no other step is enabled, after it RESET is not enabled again (R390; notes/assumptions/10.md). -/
  booted : Bool
  /-- The lines still to come: the interleaving the environment chooses (R87, R123). -/
  schedule : List Line
  /-- The agent and choices of the present step. -/
  offer : Offer
  /-- How many draws have been made (R14): the next one is `Config.freeValue drawCount`. -/
  drawCount : Nat
  /-- What the last function of R120 issued on its own returned (R14). -/
  fnResult : Result
deriving DecidableEq, Repr

/-- Why the machine stops. -/
inductive Fault where
  /-- Raised by every step of a machine that a fatal halt has stopped: "no agent has a step" (R11, R350). Safe: the spec says the same. -/
  | halted (c : FatalCode)
deriving DecidableEq, Repr, Inhabited

/-- Why the model refuses. Every one is safe: the model stops. -/
inductive Refusal where
  /-- Raised by an arm of exec whose instruction has no meaning yet. -/
  | notModelled (mnemonic : String)
  /-- Raised by step when the schedule holds no line: the environment offers nothing. -/
  | scheduleEmpty
  /-- Raised by step when the line's written form spells no instruction (R121, R125). -/
  | undecodable (e : DecodeError)
  /-- Raised when an agent issues an operation of another agent or context (R121, R375, U6). -/
  | wrongContext
  /-- Raised when a line names a task that the configuration does not have (R9). -/
  | noSuchTask
  /-- Raised when a line gives a task an operation while another is in progress (R71). -/
  | taskBusy
  /-- Raised by READ_ENC_DIAG, SEND_UI_EVENT, EB_BRIDGE and TONE_BEST_DIVISOR for an argument out of its range (R122, U8; notes/assumptions/12.md). -/
  | argOutOfRange
  /-- Raised by BUS_TRANSCEIVE for a word with a reserved bit set (R111, U3). -/
  | reservedWordBits
  /-- Raised by ENC_ISR, READ_ENC_DIAG, QD_DECODE and QD_HISTORY for a decoder state outside its profile's range (R32, U1; log entries 12
  and 25). -/
  | illegalEncoderState
deriving DecidableEq, Repr, Inhabited

/-- The fields whose reset value is a draw (R390, R394). -/
structure ResetDraws where
  txReg : U32
  rxReg : U32
  dacOut : U12
  pwmDuty : Nat
  div : Nat
  cmp : Nat
  phase : Bool
deriving DecidableEq, Repr, Inhabited

/-- The state RESET leaves when it does not halt (R390, R394), for a configuration and the draws. -/
def State.afterReset (cfg : Config) (d : ResetDraws) : State where
  enc := #v[.zero, .zero, .zero, .zero]
  qPrimary := []
  qDiag := []
  overflow := false
  owner := none
  xfer := .idle
  txReg := d.txReg
  rxReg := d.rxReg
  mode := .off
  volume := 0
  toneValue := 0
  pwmEnabled := false
  dacOut := d.dacOut
  pwmDuty := d.pwmDuty
  tone := { freq := 0, running := false, div := d.div, cmp := d.cmp, phase := d.phase }
  tick := 0
  task := List.replicate cfg.numTasks TaskCtl.idle
  halted := none
  trace := []
  cfg := cfg
  booted := true
  schedule := []
  offer := { agent := .environment, late := false, order := 0 }
  drawCount := 0
  fnResult := .none

/-- DESIGN CHOICE (notes/assumptions/1.md): the values that `State.reset` gives the fields which the spec leaves to a draw, each in the range R394
allows: zero where zero is allowed, the least legal value elsewhere. -/
def namedResetDraws (cfg : Config) : ResetDraws where
  txReg := 0
  rxReg := 0
  dacOut := 0
  pwmDuty := 1
  div := cfg.toneDivisors.headD 1
  cmp := 2
  phase := false

/-- The machine right after reset (R394): `RESET 1, 1` has happened. -/
def State.reset : State := State.afterReset chip (namedResetDraws chip)

end Sys2Proof.Machine
end

