-- ==== Sys2Proof/Machine/Operands.lean ====
section
/-! DEFINITION. The operand forms: the packed encoder samples (R100, R101), the order of one interrupt's moves (R181), the token of
a task (R241), and the sum of the two analog samples (R107, R253). -/

namespace Sys2Proof.Machine

/-- `sig_i = sigs[2i+1:2i]` (R101). -/
def sigOf (sigs : U8) (i : EncIx) : Signal := sigs.extractLsb' (2 * i.val) 2

/-- `sig = line1 * 2 + line0` (R100). -/
def signalOfLines (line1 line0 : Bool) : Signal := BitVec.ofBool line1 ++ BitVec.ofBool line0

/-- The signal that the levels of an encoder's first and second switch line make under `ENC_LINE_MAP[i]` (R100): the map says which of
them is `line1`. -/
def signalOfSwitches (cfg : Config) (i : EncIx) (first second : Bool) : Signal :=
  if cfg.encLineMap[i] then signalOfLines first second else signalOfLines second first

/-- The argument of ENC_ISR for the levels of the eight switch lines (R100, R101, R180). -/
def sigsOfSwitches (cfg : Config) (levels : EncIx → Bool × Bool) : U8 :=
  signalOfSwitches cfg 3 (levels 3).1 (levels 3).2 ++ signalOfSwitches cfg 2 (levels 2).1 (levels 2).2 ++
    signalOfSwitches cfg 1 (levels 1).1 (levels 1).2 ++ signalOfSwitches cfg 0 (levels 0).1 (levels 0).2

/-- The `k`-th order of the four encoders (R181); order 0 is ascending. -/
def encOrder (k : Fin 24) : List EncIx :=
  let orders : List (List EncIx) :=
    [[0, 1, 2, 3], [0, 1, 3, 2], [0, 2, 1, 3], [0, 2, 3, 1], [0, 3, 1, 2], [0, 3, 2, 1],
     [1, 0, 2, 3], [1, 0, 3, 2], [1, 2, 0, 3], [1, 2, 3, 0], [1, 3, 0, 2], [1, 3, 2, 0]] ++
    [[2, 0, 1, 3], [2, 0, 3, 1], [2, 1, 0, 3], [2, 1, 3, 0], [2, 3, 0, 1], [2, 3, 1, 0],
     [3, 0, 1, 2], [3, 0, 2, 1], [3, 1, 0, 2], [3, 1, 2, 0], [3, 2, 0, 1], [3, 2, 1, 0]]
  orders.getD k.val [0, 1, 2, 3]

/-- "the UiEvent of (tag, payload)" (R320): none for a payload out of range (R122) and for a tag that names no event. -/
def uiEventOf (cfg : Config) : UiArg → Option UiEvent
  | .encoderMove enc time dir => dir.map fun d => .encoderMove { enc := enc, time := time, dir := d }
  | .periodicTick => some .periodicTick
  | .pageChangeRequest page => if page.toNat < cfg.numPages then some (.pageChangeRequest page) else none
  | .generateSubModeRequest kind => if kind.toNat < cfg.numSubmodeKinds then some (.generateSubModeRequest kind) else none
  | .unknownTag _ => none

/-- The tag of SEND_UI_EVENT's argument is above 3, an "unknown event tag" (R105). -/
def tagUnknown : UiArg → Bool
  | .unknownTag tag => decide (3 < tag.toNat)
  | _ => false

/-- The token is the task's id (R241): an operand `tok` is task `t`'s when it is that number. -/
def isToken (tok : U32) (t : Nat) : Bool := decide (tok.toNat = t)

/-- `sum <- adc0 + adc1`, up to 13 bits (R253). -/
def adcSum (adc0 adc1 : U12) : Nat := adc0.toNat + adc1.toNat

end Sys2Proof.Machine
end

