-- ==== Sys2Proof/Machine/Ops.lean ====
section
/-! DEFINITION. The shared operations: the premises of a step, a task's control flow, the fatal halt (the block's only trap), the
queues, the trace and the draws. -/

namespace Sys2Proof.Machine

/-- The outcome of a step. -/
abbrev Out := Host.Outcome State Fault Refusal

/-- `Log(e)` (R14): appends to the observation trace. -/
def State.log (s : State) (e : Event) : State := { s with trace := s.trace ++ [e] }

/-- The number of a fatal code (R351), which the diagnostic signal shows. -/
def fatalNumber : FatalCode → Nat
  | .audioSourceMismatch => 1
  | .unknownEventTag => 2
  | .resourceCreationFailed => 3
  | .busReleaseFailed => 4
  | .transceiveWithoutOwnership => 5
  | .startupBusUnavailable => 6

/-- `raise Fatal(c)` (R350): taking the block's only exception. It records the code and the diagnostic signal and writes nothing else;
no outputs are silenced (R352). Nothing returns from it (R376): the halted state has no step. -/
def raiseFatal (c : FatalCode) (s : State) : State :=
  { s with halted := some c, trace := s.trace ++ [.diagSignal c] }

/-- The premises of every step but RESET's: the system is not halted (R11) and RESET has happened (R390). A step that is not enabled leaves the
state as it is (R14, `hold`; notes/assumptions/4.md). -/
def live (s : State) (k : Out) : Out :=
  match s.halted with
  | some c => .fault (.halted c)
  | none => if s.booted then k else .next s

/-- A step of the agent `a` alone: issued by any other agent it is refused (R121, R375). -/
def asAgent (a : Agent) (s : State) (k : Out) : Out :=
  live s (if s.offer.agent = a then k else .refused .wrongContext)

/-- Writes the control state of task `t`. -/
def State.setTask (s : State) (t : Nat) (c : TaskCtl) : State := { s with task := s.task.set t c }

/-- The control state of a task that starts an operation (R71): step 0, no locals yet. -/
def TaskCtl.start (c : TaskCtl) (i : Instr) : TaskCtl :=
  { c with op := some i, step := 0, locals := Locals.empty }

/-- A micro-step of the task operation `i` by the task that the present line names (R71). An idle task starts `i`; a task with `i` in progress
takes its next micro-step; a task with another operation in progress, a task that does not exist and an agent that is no task are
refused. `k` is given the task, its control state and the state before any write. -/
def asTask (i : Instr) (s : State) (k : Nat → TaskCtl → State → Out) : Out :=
  live s (match s.offer.agent with
    | .task t =>
      match s.task[t]? with
      | none => .refused .noSuchTask
      | some c =>
        match c.op with
        | none => k t (c.start i) s
        | some j => if j = i then k t c s else .refused .taskBusy
    | _ => .refused .wrongContext)

/-- `return r` (R14, R71): the task is idle and holds the result. -/
def finish (t : Nat) (c : TaskCtl) (r : Result) (s : State) : Out :=
  .next (s.setTask t { c with op := none, result := r })

/-- `step <- n`: the task goes on to micro-step `n`. -/
def goStep (t : Nat) (c : TaskCtl) (n : Nat) (s : State) : Out :=
  .next (s.setTask t { c with step := n })

/-- `hold` (R14): the micro-step is not enabled, and the task stays where it is, in the operation it has started. -/
def holdTask (t : Nat) (c : TaskCtl) (s : State) : Out := .next (s.setTask t c)

/-- `raise Fatal` in a task operation, which stays the operation in progress (DEDUCED, notes/assumptions/9.md). -/
def fatalTask (t : Nat) (c : TaskCtl) (f : FatalCode) (s : State) : Out :=
  .next (raiseFatal f (s.setTask t c))

/-- `QSend(q, v)` (R14, R84): the queue with `v` at its tail, or nothing when it is full. -/
def qSend {α : Type} (cap : Nat) (q : List α) (v : α) : Option (List α) :=
  if q.length < cap then some (q ++ [v]) else none

/-- `receiverWaiting(q)` (R185): some task is held in micro-step 0 of `recv`, which is RECV_UI_EVENT for `qPrimary` and RECV_DIAG_EVENT for `qDiag`. A
task there is held (R14) while its queue is empty: a send lifts the hold "because its queue is no longer empty" (DEDUCED, notes/assumptions/11.md). -/
def receiverWaiting {α : Type} (s : State) (q : List α) (recv : Instr) : Bool :=
  q.isEmpty && s.task.any fun c => decide (c.op = some recv) && decide (c.step = 0)

/-- The `k`-th draw from here on (R14). -/
def State.draw (s : State) (k : Nat) : Nat := Config.freeValue (s.drawCount + k)

/-- `k` draws have been made. -/
def State.drew (s : State) (k : Nat) : State := { s with drawCount := s.drawCount + k }

/-- `draw bit` (R14). -/
def State.drawBit (s : State) (k : Nat) : Bool := decide (s.draw k % 2 = 1)

/-- Draws a value of each field RESET leaves open, within the range R390 gives it. -/
def State.resetDraws (s : State) : ResetDraws where
  txReg := BitVec.ofNat 32 (s.draw 0)
  rxReg := BitVec.ofNat 32 (s.draw 1)
  dacOut := BitVec.ofNat 12 (s.draw 2)
  pwmDuty := 1 + s.draw 3 % (s.cfg.pwmPeriod - 1)
  div := s.cfg.toneDivisors.getD (s.draw 4 % s.cfg.toneDivisors.length) 1
  cmp := 2 + s.draw 5 % (s.cfg.toneCmpMax - 1)
  phase := s.drawBit 6

end Sys2Proof.Machine
end

