-- ==== Sys2Proof/Machine/Tone.lean ====
section
/-! DEFINITION. The reference tone generator (44_tone_generator.md): SET_FREQUENCY, TONE_BEST_DIVISOR, TONE_EDGE. -/

namespace Sys2Proof.Machine

/-- `|TONE_CLK - hz * d * c|`, an exact integer (R293). -/
def periodError (clk hz d c : Nat) : Nat := ((clk : Int) - (hz * d * c : Nat)).natAbs

/-- The candidates of the search in its order (R293): for each divisor, ascending, the clamped floor of the quotient and the
next number. -/
def divisorCandidates (clk cmpMax : Nat) (divs : List Nat) (hz : Nat) : List (Nat × Nat) :=
  (divs.insertionSort (· ≤ ·)).flatMap fun d =>
    let x := clk / (d * hz)
    [(d, clamp x 2 cmpMax), (d, clamp (x + 1) 2 cmpMax)]

/-- The first candidate of least error (R293: `best` changes only for a smaller error). -/
def bestOf (clk hz : Nat) : List (Nat × Nat) → Option (Nat × Nat)
  | [] => none
  | p :: ps =>
    match bestOf clk hz ps with
    | none => some p
    | some q => if periodError clk hz q.1 q.2 < periodError clk hz p.1 p.2 then some q else some p

/-- TONE_BEST_DIVISOR(hz) (R293). The divisor list of an admitted configuration is not empty (R7), so there is a best pair. -/
def bestDivisor (cfg : Config) (hz : Nat) : Nat × Nat :=
  (bestOf cfg.toneClk hz (divisorCandidates cfg.toneClk cfg.toneCmpMax cfg.toneDivisors hz)).getD (1, 2)

/-- SET_FREQUENCY step 1 (R291): the timer stops, and the level its output holds is drawn. -/
def stopTimer (s : State) : State :=
  ({ s with tone := { s.tone with running := false, phase := s.drawBit 0 } }.drew 1).log .timerStop

/-- SET_FREQUENCY step 2 for `hz = 0` (R292): the timer stays as it is, and frequency 0 is recorded. -/
def recordStopped (s : State) : State := { s with tone := { s.tone with freq := 0 } }

/-- SET_FREQUENCY step 2 for `hz != 0` (R292): configure, restart at the start phase, record. -/
def startTimer (hz : U32) (s : State) : State :=
  let p := bestDivisor s.cfg hz.toNat
  { s with tone := { freq := hz, running := true, div := p.1, cmp := p.2, phase := s.cfg.toneStartPhase } }.log
    (.timerStart p.1 p.2)

/-- Micro-step `k` of SET_FREQUENCY(hz) on the block's state (R290 to R292), whether called by a task or nested in SET_MODE. -/
def freqEffect (hz : U32) (k : Nat) (s : State) : State :=
  match k with
  | 0 => s
  | 1 => stopTimer s
  | _ => if hz = 0 then recordStopped s else startTimer hz s

/-- Where SET_FREQUENCY goes after micro-step `k`: the next micro-step, or nowhere when it returns (R290). -/
def freqNext (hz : U32) (k : Nat) (s : State) : Option Nat :=
  match k with
  | 0 => if hz = s.tone.freq then none else some 1
  | 1 => some 2
  | _ => none

/-- SET_FREQUENCY (code 0x11, R290): three micro-steps. -/
def execSetFrequency (hz : U32) (s : State) : Out :=
  asTask (.setFrequency hz) s fun t c s =>
    match freqNext hz c.step s with
    | some n => goStep t c n (freqEffect hz c.step s)
    | none => finish t c .none (freqEffect hz c.step s)

/-- TONE_EDGE (code 0x03, R300): the phase bit of a running timer toggles; of a stopped timer it is constant, the step not being enabled. -/
def execToneEdge (s : State) : Out :=
  asAgent .toneTimer s (if s.tone.running then
      .next { s with tone := { s.tone with phase := !s.tone.phase } }
    else .next s)

/-- TONE_BEST_DIVISOR (code 0x53) issued on its own by a task, the context of its caller: returns `(div, cmp)` and writes no field of
the block (R293). `hz = 0` is out of its range (R122). A function is no task operation (R120), so a task with an operation in progress may
issue it too, and stays in that operation: DESIGN CHOICE, safe (log entry 6). -/
def execToneBestDivisor (hz : U32) (s : State) : Out :=
  live s (match s.offer.agent with
    | .task t =>
      if s.task.length ≤ t then .refused .noSuchTask
      else if hz = 0 then .refused .argOutOfRange
      else .next { s with fnResult := .divisor (bestDivisor s.cfg hz.toNat).1 (bestDivisor s.cfg hz.toNat).2 }
    | _ => .refused .wrongContext)

end Sys2Proof.Machine
end

