-- ==== Sys2Proof/Machine/Audio.lean ====
section
/-! DEFINITION. The audio sample engine (43_audio_engine.md): AUDIO_TICK, SET_MODE, SET_VOLUME. -/

namespace Sys2Proof.Machine

/-- `dac <- sum >> 1` (R253). -/
def passthroughDac (sum : Nat) : Nat := sum / 2

/-- `duty <- clamp((sum * PWM_PERIOD) >> 13, 1, PWM_PERIOD - 1)` (R254). -/
def passthroughDuty (period sum : Nat) : Nat := clamp (sum * period / 8192) 1 (period - 1)

/-- `off <- (DAC_HALF * S.volume) / 255` (R255). -/
def toneOffset (vol : U8) : Nat := dacHalf * vol.toNat / 255

/-- `dac <- if ph = 1 then DAC_MID + off else DAC_MID - off` (R255). -/
def toneDac (vol : U8) (ph : Bool) : Nat :=
  if ph then dacMid + toneOffset vol else dacMid - toneOffset vol

/-- The tone modes' duty (R256): the midpoint and the scaled offset, clamped. -/
def toneDuty (period : Nat) (vol : U8) (ph : Bool) : Nat :=
  let pmid := period / 2
  let poff := toneOffset vol * (pmid - 1) / dacHalf
  clamp (if ph then pmid + poff else pmid - poff) 1 (period - 1)

/-- The DAC write, then the duty write, each with its trace event (R253, R254). -/
def writeOutputs (dac duty : Nat) (s : State) : State :=
  ({ s with dacOut := BitVec.ofNat 12 dac, pwmDuty := duty }.log (.dacWrite (BitVec.ofNat 12 dac))).log (.dutyWrite duty)

/-- PASSTHROUGH(adc0, adc1) (R253, R254). -/
def passthrough (adc0 adc1 : U12) (s : State) : State :=
  writeOutputs (passthroughDac (adcSum adc0 adc1)) (passthroughDuty s.cfg.pwmPeriod (adcSum adc0 adc1)) s

/-- TONE_SAMPLE() (R255, R256). -/
def toneSample (s : State) : State :=
  writeOutputs (toneDac s.volume s.tone.phase) (toneDuty s.cfg.pwmPeriod s.volume s.tone.phase) s

/-- The output of one audio interrupt in the current mode (R250, R252). -/
def audioSample (adc0 adc1 : U12) (s : State) : State :=
  match s.mode with
  | .off => s
  | .adcPassthrough => passthrough adc0 adc1 s
  | .toneValue => toneSample s
  | .toneFrequency => toneSample s

/-- AUDIO_TICK (code 0x02, R250), one atomic step: the source check comes before any output write (R251). -/
def execAudioTick (src : AudioSrc) (adc0 adc1 : U12) (s : State) : Out :=
  asAgent .audioIsr s (if src = .expected then .next (audioSample adc0 adc1 s)
    else .next (raiseFatal .audioSourceMismatch s))

/-- SET_MODE step 3 (R263): the PWM channel is disabled for Off and enabled for any other mode, and the write is logged. -/
def applyEnable (new : AudioMode) (s : State) : State :=
  if new = .off then { s with pwmEnabled := false }.log .pwmDisable
  else { s with pwmEnabled := true }.log .pwmEnable

/-- SET_MODE (code 0x10, R260): step 0 the no-op guard, step 1 the nested SET_FREQUENCY(0) with its own micro-steps 1.0 to 1.2, step 2 the
mode write, step 3 the output enable. -/
def execSetMode (mode : AudioMode) (s : State) : Out :=
  asTask (.setMode mode) s fun t c s =>
    match c.step with
    | 0 => if mode = s.mode then finish t c .none s else goStep t c 1 s
    | 1 =>
      let s' := freqEffect 0 c.locals.nested s
      match freqNext 0 c.locals.nested s with
      | some n => .next (s'.setTask t { c with locals := { c.locals with nested := n } })
      | none => goStep t c 2 s'
    | 2 => goStep t c 3 { s with mode := mode }
    | _ => finish t c .none (applyEnable mode s)

/-- SET_VOLUME (code 0x12, R270): one micro-step. -/
def execSetVolume (vol : U8) (s : State) : Out :=
  asTask (.setVolume vol) s fun t c s => finish t c .none { s with volume := vol }

end Sys2Proof.Machine
end

