-- ==== Sys2Proof/Machine/Flags.lean ====
section
/-! DEFINITION. The block's only flag, the sticky overflow flag (R40, R66). There are no condition codes. -/

namespace Sys2Proof.Machine

/-- `S.overflow <- 1` (R183): the event bridge alone does so. -/
def State.setOverflow (s : State) : State := { s with overflow := true }

/-- `S.overflow <- 0` (R327): CLEAR_OVERFLOW alone does so. -/
def State.clearOverflow (s : State) : State := { s with overflow := false }

end Sys2Proof.Machine
end

