-- ==== Sys2Proof/Machine/Quadrature.lean ====
section
/-! DEFINITION. The quadrature decoder (40_quadrature_decoder.md): QD_DECODE, QD_HISTORY, READ_ENC_DIAG. -/

namespace Sys2Proof.Machine

/-- QD_DECODE(P, st, sig) (R143): the cell of the table; none for a state outside the profile's range (U1). -/
def decodeCell (cfg : Config) (p : EncoderProfile) (st : StIx) (sig : Signal) : Option Cell :=
  if legalState p st then Table.cell (tableOf cfg p) st sig else none

/-- The history ring with a new newest entry; the oldest is dropped (R150). -/
def pushHist (h : Vector HistEntry 10) (e : HistEntry) : Vector HistEntry 10 :=
  #v[e, h[0], h[1], h[2], h[3], h[4], h[5], h[6], h[7], h[8]]

/-- QD_HISTORY (R150) on the state of its encoder: an entry for a signal that differs from the newest recorded one. -/
def recordHist (e : EncState) (st2 : StIx) (sig : Signal) (dir : Direction) (now : U32) : EncState :=
  if sig = e.hist[0].sig then e
  else { e with
    hist := pushHist e.hist { st := st2, sig := sig, dir := dir, dt := now - e.lastChange }
    lastChange := now }

/-- QD_DECODE (code 0x50) issued on its own: returns `(st', dir)` and writes no field of the block (R143). -/
def execQdDecode (profile : EncoderProfile) (st : StIx) (sig : Signal) (s : State) : Out :=
  asAgent .encIsr s (match decodeCell s.cfg profile st sig with
    | none => .refused .illegalEncoderState
    | some (dir, next) => .next { s with fnResult := .decoded next dir })

/-- QD_HISTORY (code 0x51) issued on its own: records the entry of encoder `i` (R150). A new state outside the profile's range is
refused (R122, U1). -/
def execQdHistory (i : EncIx) (st2 : StIx) (sig : Signal) (dir : Direction) (now : U32) (s : State) : Out :=
  asAgent .encIsr s (if legalState s.cfg.profiles[i] st2 then
      .next { s with enc := s.enc.set i (recordHist s.enc[i] st2 sig dir now), fnResult := .none }
    else .refused .illegalEncoderState)

/-- The `k`-th read of READ_ENC_DIAG (R160): step 0 reads the state, steps 1 to 10 one history entry each, step 11 the
last-change time. -/
def readDiag (e : EncState) (k : Nat) (snap : Snapshot) : Snapshot :=
  if k = 0 then { snap with st := e.st }
  else if h : k - 1 < 10 then { snap with hist := snap.hist.set (k - 1) (e.hist[k - 1]) }
  else { snap with lastChange := e.lastChange }

/-- READ_ENC_DIAG (code 0x35, R160): twelve micro-steps, one field each; the last returns the snapshot. An index above 3 is
refused (R122), and a decoder state outside its profile's range at step 0, the step that reads it (R32, U1; log entry 25). -/
def execReadEncDiag (idx : U8) (s : State) : Out :=
  asTask (.readEncDiag idx) s fun t c s =>
    if h : idx.toNat < 4 then
      if c.step = 0 ∧ legalState s.cfg.profiles[idx.toNat] s.enc[idx.toNat].st = false then .refused .illegalEncoderState
      else
        let snap := readDiag s.enc[idx.toNat] c.step c.locals.snap
        let c' := { c with locals := { c.locals with snap := snap } }
        if c.step < 11 then goStep t c' (c.step + 1) s else finish t c' (.snapshot snap) s
    else .refused .argOutOfRange

end Sys2Proof.Machine
end

