-- ==== Sys2Proof/Machine/Bridge.lean ====
section
/-! DEFINITION. The event bridge and the encoder interrupt (41_event_bridge.md): EB_BRIDGE, ENC_ISR. -/

namespace Sys2Proof.Machine

/-- The primary send of EB_BRIDGE (R182, R183): a full queue sets the overflow flag and drops the event. -/
def sendPrimary (m : EncoderMove) (s : State) : State :=
  match qSend s.cfg.primaryDepth s.qPrimary (.encoderMove m) with
  | some q => { s with qPrimary := q }
  | none => s.setOverflow

/-- The diagnostic send of EB_BRIDGE (R182, R184): a full queue drops the move silently. -/
def sendDiag (m : EncoderMove) (s : State) : State :=
  match qSend s.cfg.diagDepth s.qDiag m with
  | some q => { s with qDiag := q }
  | none => s

/-- One round of EB_BRIDGE's loop (R182). -/
def bridgeOne (m : EncoderMove) (s : State) : State := sendDiag m (sendPrimary m s)

/-- Whether that round wakes a waiting receiver (R182, R185): one of its two sends succeeds while a receiver waits. -/
def bridgeWakes (m : EncoderMove) (s : State) : Bool :=
  ((qSend s.cfg.primaryDepth s.qPrimary (.encoderMove m)).isSome && receiverWaiting s s.qPrimary .recvUiEvent) ||
  ((qSend s.cfg.diagDepth s.qDiag m).isSome && receiverWaiting s s.qDiag .recvDiagEvent)

/-- EB_BRIDGE(ms) (R182): the state after sending the moves in the order given. -/
def bridge : List EncoderMove → State → State
  | [], s => s
  | m :: ms, s => bridge ms (bridgeOne m s)

/-- EB_BRIDGE's result (R182): the yield flag. -/
def bridgeYield : List EncoderMove → State → Bool
  | [], _ => false
  | m :: ms, s => bridgeWakes m s || bridgeYield ms (bridgeOne m s)

/-- The cell that encoder `i` decodes at a sample. -/
def encCell (s : State) (sigs : U8) (i : EncIx) : Option Cell :=
  decodeCell s.cfg s.cfg.profiles[i] s.enc[i].st (sigOf sigs i)

/-- Encoder `i` after the interrupt (R180): the next state stored, then the history step. An encoder with no cell is left as it is. -/
def encAfter (s : State) (sigs : U8) (i : EncIx) : EncState :=
  match encCell s sigs i with
  | none => s.enc[i]
  | some (dir, next) => recordHist { s.enc[i] with st := next } next (sigOf sigs i) dir s.tick

/-- The move of encoder `i` in this interrupt, when it decodes a direction (R180, R182). -/
def encMove (s : State) (sigs : U8) (i : EncIx) : Option EncoderMove :=
  match encCell s sigs i with
  | some (some d, _) => some { enc := i, time := s.tick, dir := d }
  | _ => none

/-- `order(moves)` (R181): the moves of one interrupt in the order that the present line chooses. -/
def encMoves (s : State) (sigs : U8) : List EncoderMove :=
  (encOrder s.offer.order).filterMap (encMove s sigs)

/-- The four encoders after the interrupt. -/
def sampled (s : State) (sigs : U8) : State :=
  { s with enc := #v[encAfter s sigs 0, encAfter s sigs 1, encAfter s sigs 2, encAfter s sigs 3] }

/-- ENC_ISR once every encoder is in a legal state: decode and history of the four, the bridge, the yield request (R180). -/
def interruptEncoders (s : State) (sigs : U8) : State :=
  let ms := encMoves s sigs
  let s' := bridge ms (sampled s sigs)
  if bridgeYield ms (sampled s sigs) then s'.log .yieldRequest else s'

/-- ENC_ISR (code 0x01, R180), one atomic step; an encoder in a state outside its profile's range is refused (U1). -/
def execEncIsr (sigs : U8) (s : State) : Out :=
  asAgent .encIsr s (if ([0, 1, 2, 3] : List EncIx).all (fun i => (encCell s sigs i).isSome) then
      .next (interruptEncoders s sigs)
    else .refused .illegalEncoderState)

/-- EB_BRIDGE (code 0x52) issued on its own (R182): sends the moves and returns the yield flag. A list that is no operand of it, more than four
moves or two of one encoder, is refused (R122). -/
def execEbBridge (moves : List EncoderMove) (s : State) : Out :=
  asAgent .encIsr s (if movesWf moves then
      .next { bridge moves s with fnResult := .yieldFlag (bridgeYield moves s) }
    else .refused .argOutOfRange)

end Sys2Proof.Machine
end

