-- ==== Sys2Proof/Machine/Bus.lean ====
section
/-! DEFINITION. The serial bus arbiter (42_bus_arbiter.md): BUS_ACQUIRE, BUS_TRANSCEIVE, BUS_RELEASE, BUS_COMPLETE, and the bus
request-word forms, each of which stands for BUS_TRANSCEIVE of its word with the issuing task's own token. -/

namespace Sys2Proof.Machine

/-- The bus is granted to task `t` (R210, R212). -/
def grantBus (t : Nat) (s : State) : State := { s with owner := some t }

/-- BUS_ACQUIRE (code 0x20): micro-step 0 (R210), then the blocked wait with its transitions (grant) and (expire) (R212). -/
def execBusAcquire (timeoutMs : U32) (s : State) : Out :=
  asTask (.busAcquire timeoutMs) s fun t c s =>
    match c.step with
    | 0 =>
      if s.owner = none then finish t c (.okTok t) (grantBus t s)
      else if timeoutMs = 0 then finish t c .timeoutError s
      else goStep t c 1 s
    | _ =>
      if s.offer.late then finish t c .timeoutError s
      else if s.owner = none then finish t c (.okTok t) (grantBus t s)
      else holdTask t c s

/-- The request word goes to the serial peripheral (R220). -/
def startTransfer (word : U32) (s : State) : State :=
  { s with txReg := word, xfer := .inFlight }.log (.busTx word)

/-- BUS_TRANSCEIVE with token `tok` and a word, as the operation `i` of the issuing task: micro-step 0 (R220; ownership is checked before the reserved
bits, R362), then the completion wait with its transitions (ready) and (timeout) (R221). `mine` says whether the token is task `t`'s. -/
def transceive (i : Instr) (mine : Nat → Bool) (word : U32) (s : State) : Out :=
  asTask i s fun t c s =>
    match c.step with
    | 0 =>
      if s.owner = some t ∧ mine t = true then
        if reservedClear word then goStep t c 1 (startTransfer word s) else .refused .reservedWordBits
      else fatalTask t c .transceiveWithoutOwnership s
    | _ =>
      if s.offer.late then
        finish t c (.xferTimeout s.rxReg) { s with xfer := if s.xfer = .done then .idle else .stale }
      else if s.xfer = .done then finish t c (.okResp s.rxReg) { s with xfer := .idle }
      else holdTask t c s

/-- BUS_TRANSCEIVE (code 0x21, R220, R221). -/
def execBusTransceive (tok word : U32) (s : State) : Out :=
  transceive (.busTransceive tok word) (isToken tok) word s

/-- BUS_RELEASE (code 0x22, R225). -/
def execBusRelease (tok : U32) (s : State) : Out :=
  asTask (.busRelease tok) s fun t c s =>
    if s.owner = some t ∧ isToken tok t = true then finish t c .none { s with owner := none }
    else fatalTask t c .busReleaseFailed s

/-- BUS_COMPLETE (code 0x04, R230): enabled while a transfer is in flight or abandoned; otherwise the step is not enabled and nothing changes. -/
def execBusComplete (resp : U32) (s : State) : Out :=
  asAgent .busDev s (match s.xfer with
    | .inFlight => .next { s with rxReg := resp, xfer := .done }
    | .stale => .next { s with rxReg := resp, xfer := .idle }
    | .idle => .next s
    | .done => .next s)

/-- BUSW_GENERIC (R110): BUS_TRANSCEIVE of the word with these fields. -/
def execBuswGeneric (last : Bool) (ch : BitVec 4) (payload : U16) (s : State) : Out :=
  transceive (.buswGeneric last ch payload) (fun _ => true) (assembleWord last ch payload) s

/-- BUSW_POT_WRITE (R113): BUS_TRANSCEIVE of a potentiometer write. -/
def execBuswPotWrite (last : Bool) (addr : BitVec 4) (value : BitVec 9) (s : State) : Out :=
  transceive (.buswPotWrite last addr value) (fun _ => true)
    (assembleWord last s.cfg.channels.pot (potWritePayload addr value)) s

/-- BUSW_POT_READ (R114): BUS_TRANSCEIVE of a potentiometer read. -/
def execBuswPotRead (last : Bool) (addr : BitVec 4) (s : State) : Out :=
  transceive (.buswPotRead last addr) (fun _ => true)
    (assembleWord last s.cfg.channels.pot (potReadPayload addr)) s

/-- BUSW_DISP_CMD (R115): BUS_TRANSCEIVE of a display command-select. -/
def execBuswDispCmd (last : Bool) (index : U8) (s : State) : Out :=
  transceive (.buswDispCmd last index) (fun _ => true)
    (assembleWord last s.cfg.channels.dispCmd (dispCmdPayload index)) s

/-- BUSW_DISP_WRITE (R116): BUS_TRANSCEIVE of a display data write. -/
def execBuswDispWrite (last : Bool) (value : U8) (s : State) : Out :=
  transceive (.buswDispWrite last value) (fun _ => true)
    (assembleWord last s.cfg.channels.dispData (dispWritePayload value)) s

/-- BUSW_DISP_READ (R117): BUS_TRANSCEIVE of a display data read. That a command-select must come before it is the caller's duty, which the block does
not check (R406). -/
def execBuswDispRead (last : Bool) (s : State) : Out :=
  transceive (.buswDispRead last) (fun _ => true)
    (assembleWord last s.cfg.channels.dispData dispReadPayload) s

end Sys2Proof.Machine
end

