-- ==== Sys2Proof/Machine/HostOps.lean ====
section
/-! DEFINITION. The collaborator-facing operations (45_host_operations.md): SEND_UI_EVENT, RECV_UI_EVENT, RECV_DIAG_EVENT, READ_OVERFLOW,
CLEAR_OVERFLOW, TICK. -/

namespace Sys2Proof.Machine

/-- SEND_UI_EVENT (code 0x30, R320): the tag (fatal), then the payload's range (refused), then the queue (R362). A full queue gives `full`
under NonBlocking and a hold under Blocking; it never sets the overflow flag (R321). -/
def execSendUiEvent (arg : UiArg) (s : State) : Out :=
  asTask (.sendUiEvent arg) s fun t c s =>
    if tagUnknown arg then fatalTask t c .unknownEventTag s
    else match uiEventOf s.cfg arg with
      | none => .refused .argOutOfRange
      | some ev =>
        match qSend s.cfg.primaryDepth s.qPrimary ev with
        | some q => finish t c .sent { s with qPrimary := q }
        | none =>
          match s.cfg.uiSendPolicy with
          | .nonBlocking => finish t c .full s
          | .blocking => holdTask t c s

/-- RECV_UI_EVENT (code 0x31, R322): holds while the primary queue is empty. -/
def execRecvUiEvent (s : State) : Out :=
  asTask .recvUiEvent s fun t c s =>
    match s.qPrimary with
    | [] => holdTask t c s
    | ev :: q => finish t c (.event ev) { s with qPrimary := q }

/-- RECV_DIAG_EVENT (code 0x32, R324): holds while the diagnostic queue is empty. -/
def execRecvDiagEvent (s : State) : Out :=
  asTask .recvDiagEvent s fun t c s =>
    match s.qDiag with
    | [] => holdTask t c s
    | m :: q => finish t c (.move m) { s with qDiag := q }

/-- READ_OVERFLOW (code 0x33, R326). -/
def execReadOverflow (s : State) : Out :=
  asTask .readOverflow s fun t c s => finish t c (.flag s.overflow) s

/-- CLEAR_OVERFLOW (code 0x34, R327). -/
def execClearOverflow (s : State) : Out :=
  asTask .clearOverflow s fun t c s => finish t c .none s.clearOverflow

/-- TICK (code 0x05, R330): modulo 2^32. -/
def execTick (s : State) : Out := asAgent .tickSrc s (.next { s with tick := s.tick + 1 })

end Sys2Proof.Machine
end

