-- ==== Sys2Proof/Machine/Reset.lean ====
section
/-! DEFINITION. RESET (70_reset_and_hazards.md, R390 to R395). -/

namespace Sys2Proof.Machine

/-- The fields RESET writes (R390), every field of the record of R30; the schedule and the present line are the environment's and stay. -/
def resetFields (s : State) : State :=
  { State.afterReset s.cfg s.resetDraws with
    schedule := s.schedule, offer := s.offer, drawCount := s.drawCount + 7 }

/-- RESET (code 0x00, R390): the first step of an execution and not enabled again. If resource creation fails the system halts, else if the startup bus
sequence fails it halts (R391, R392). -/
def execReset (createOk busOk : Bool) (s : State) : Out :=
  match s.halted with
  | some c => .fault (.halted c)
  | none =>
    if s.offer.agent = .environment then
      if s.booted then .next s
      else if createOk = false then .next (raiseFatal .resourceCreationFailed (resetFields s))
      else if busOk = false then .next (raiseFatal .startupBusUnavailable (resetFields s))
      else .next (resetFields s)
    else .refused .wrongContext

end Sys2Proof.Machine
end

