-- ==== Sys2Proof/Machine/Dispatch.lean ====
section
/-! DEFINITION. One arm for each constructor of Instr, each one call of that instruction's meaning. -/

namespace Sys2Proof.Machine

def exec (i : Instr) (s : State) : Host.Outcome State Fault Refusal :=
  match i with
  | .reset createOk busOk => Sys2Proof.Machine.execReset createOk busOk s
  | .encIsr sigs => Sys2Proof.Machine.execEncIsr sigs s
  | .audioTick src adc0 adc1 => Sys2Proof.Machine.execAudioTick src adc0 adc1 s
  | .toneEdge => Sys2Proof.Machine.execToneEdge s
  | .busComplete resp => Sys2Proof.Machine.execBusComplete resp s
  | .tick => Sys2Proof.Machine.execTick s
  | .setMode mode => Sys2Proof.Machine.execSetMode mode s
  | .setFrequency hz => Sys2Proof.Machine.execSetFrequency hz s
  | .setVolume vol => Sys2Proof.Machine.execSetVolume vol s
  | .busAcquire timeoutMs => Sys2Proof.Machine.execBusAcquire timeoutMs s
  | .busTransceive tok word => Sys2Proof.Machine.execBusTransceive tok word s
  | .busRelease tok => Sys2Proof.Machine.execBusRelease tok s
  | .sendUiEvent arg => Sys2Proof.Machine.execSendUiEvent arg s
  | .recvUiEvent => Sys2Proof.Machine.execRecvUiEvent s
  | .recvDiagEvent => Sys2Proof.Machine.execRecvDiagEvent s
  | .readOverflow => Sys2Proof.Machine.execReadOverflow s
  | .clearOverflow => Sys2Proof.Machine.execClearOverflow s
  | .readEncDiag idx => Sys2Proof.Machine.execReadEncDiag idx s
  | .qdDecode profile st sig => Sys2Proof.Machine.execQdDecode profile st sig s
  | .qdHistory i2 st2 sig dir now => Sys2Proof.Machine.execQdHistory i2 st2 sig dir now s
  | .ebBridge moves => Sys2Proof.Machine.execEbBridge moves s
  | .toneBestDivisor hz => Sys2Proof.Machine.execToneBestDivisor hz s
  | .buswGeneric last ch payload => Sys2Proof.Machine.execBuswGeneric last ch payload s
  | .buswPotWrite last addr value => Sys2Proof.Machine.execBuswPotWrite last addr value s
  | .buswPotRead last addr => Sys2Proof.Machine.execBuswPotRead last addr s
  | .buswDispCmd last index => Sys2Proof.Machine.execBuswDispCmd last index s
  | .buswDispWrite last value => Sys2Proof.Machine.execBuswDispWrite last value s
  | .buswDispRead last => Sys2Proof.Machine.execBuswDispRead last s

end Sys2Proof.Machine
end

