-- ==== Sys2Proof/Machine/Fetch.lean ====
section
/-! DEFINITION. How the next line of the schedule becomes an instruction, and how a written instruction is placed there. The block fetches
no instruction (R93): an execution is a sequence of steps that the environment chooses (R87), written as the lines of R123. -/

namespace Sys2Proof.Machine

/-- The agent that issues a written instruction: the agent of its row of R120. Task operations, TONE_BEST_DIVISOR and bus words are
issued by task 0, the functions of the encoder interrupt by it. -/
def agentOfCode : Code → Agent
  | .busWord _ => .task 0
  | .descriptor d =>
    match d % 256 with
    | 0x00 => .environment
    | 0x01 => .encIsr
    | 0x02 => .audioIsr
    | 0x03 => .toneTimer
    | 0x04 => .busDev
    | 0x05 => .tickSrc
    | 0x50 => .encIsr
    | 0x51 => .encIsr
    | 0x52 => .encIsr
    | _ => .task 0

/-- The written instruction is RESET's descriptor. -/
def isResetCode : Code → Bool
  | .busWord _ => false
  | .descriptor d => decide (d % 256 = 0)

/-- The line in which an agent takes up a written instruction, with the first choices everywhere. -/
def lineOf (c : Code) : Line :=
  { offer := { agent := agentOfCode c, late := false, order := 0 }, body := .issue c }

/-- The line is taken: it leaves the schedule, and its agent and choices are those of the present step. -/
def State.take (s : State) (l : Line) (rest : List Line) : State :=
  { s with schedule := rest, offer := l.offer }

/-- The instruction a line asks for (R121, R123): the decoded one, or the operation that the named task has in progress; none for a task that
is idle, which has no micro-step to take. -/
def instrOf (s : State) (l : Line) : Except Refusal (Option Instr) :=
  match l.body with
  | .issue c =>
    match decode s.cfg.channels c with
    | .ok i => .ok (some i)
    | .error e => .error (.undecodable e)
  | .resume =>
    match l.offer.agent with
    | .task t =>
      match s.task[t]? with
      | none => .error .noSuchTask
      | some c => .ok c.op
    | _ => .error .wrongContext

end Sys2Proof.Machine
end

