-- ==== Sys2Proof/Machine/Step.lean ====
section
/-! DEFINITION. One step of the machine: the next line of the schedule. -/

namespace Sys2Proof.Machine

/-- One step (R10, R87): the line at the head of the schedule is taken and its instruction runs. A halted system has no step (R11); an empty
schedule offers none. -/
def step (s : State) : Host.Outcome State Fault Refusal :=
  match s.halted, s.schedule with
  | some c, _ => .fault (.halted c)
  | none, [] => .refused .scheduleEmpty
  | none, l :: rest =>
    match instrOf s l with
    | .error r => .refused r
    | .ok none => .next (s.take l rest)
    | .ok (some i) => exec i (s.take l rest)

/-- `s` with the written instruction of an opcode-table word as the next line of the schedule, issued by the agent of its row. RESET is enabled
only at power-on (R390), so its descriptor is placed on a machine that RESET has not yet happened to. -/
def State.withFetchWord (s : State) (nbits w : Nat) : State :=
  { s with
    schedule := lineOf (codeOfTableWord nbits w) :: s.schedule
    booted := s.booted && !isResetCode (codeOfTableWord nbits w) }

end Sys2Proof.Machine
end

