-- ==== Sys2Proof/Machine/Program.lean ====
section
/-! DEFINITION. The program syntax and the pseudo-operations of 30_encoding.md section 4 (R123, R124), as data and functions over
instructions. No step of the machine uses them: they write schedules. -/

namespace Sys2Proof.Machine

/-- `BUS_ACQUIRE` with no argument (R216). -/
def busAcquireDefault : Instr := .busAcquire acquireDefaultTimeoutMs

/-- The most micro-steps an operation takes (R160, R212, R221, R260, R261, R290). -/
def microSteps : Instr → Nat
  | .setMode _ => 6
  | .setFrequency _ => 3
  | .busAcquire _ => 2
  | .busTransceive _ _ => 2
  | .readEncDiag _ => 12
  | .buswGeneric _ _ _ => 2
  | .buswPotWrite _ _ _ => 2
  | .buswPotRead _ _ => 2
  | .buswDispCmd _ _ => 2
  | .buswDispWrite _ _ => 2
  | .buswDispRead _ => 2
  | .reset _ _ => 1
  | .encIsr _ => 1
  | .audioTick _ _ _ => 1
  | .toneEdge => 1
  | .busComplete _ => 1
  | .tick => 1
  | .setVolume _ => 1
  | .busRelease _ => 1
  | .sendUiEvent _ => 1
  | .recvUiEvent => 1
  | .recvDiagEvent => 1
  | .readOverflow => 1
  | .clearOverflow => 1
  | .qdDecode _ _ _ => 1
  | .qdHistory _ _ _ _ _ => 1
  | .ebBridge _ => 1
  | .toneBestDivisor _ => 1

/-- A line that is one whole operation (R123), split into its micro-steps; the micro-steps left over when the operation returns early
find the task idle and change nothing of the block. -/
def wholeLine (c : Channels) (o : Offer) (i : Instr) : List Line :=
  { offer := o, body := .issue (encode c i) } :: List.replicate (microSteps i - 1) { offer := o, body := .resume }

/-- The pseudo-operations (R124). -/
inductive Pseudo where
  | potSet (addr : BitVec 4) (value : BitVec 9)
  | potGet (addr : BitVec 4)
  | dispRead (index : U8)
deriving DecidableEq, Repr

/-- The request words of a pseudo-operation in order, `LAST` set on each (R124). -/
def pseudoWords (c : Channels) : Pseudo → List U32
  | .potSet addr value => [assembleWord true c.pot (potWritePayload addr value)]
  | .potGet addr => [assembleWord true c.pot (potReadPayload addr)]
  | .dispRead index =>
    [assembleWord true c.dispCmd (dispCmdPayload index), assembleWord true c.dispData dispReadPayload]

/-- Where a pseudo-operation stands: before its acquire; with words still to send; at its release, with the result it will give; or
over, with that result. -/
inductive PseudoStage where
  | acquire (words : List U32)
  | send (word : U32) (rest : List U32)
  | release (r : Result)
  | over (r : Result)
deriving DecidableEq, Repr

/-- The stage a pseudo-operation starts in. -/
def pseudoStart (c : Channels) (p : Pseudo) : PseudoStage := .acquire (pseudoWords c p)

/-- The operation task `tok` issues at a stage; none when the pseudo-operation is over. -/
def pseudoOp (tok : U32) : PseudoStage → Option Instr
  | .acquire _ => some busAcquireDefault
  | .send w _ => some (.busTransceive tok w)
  | .release _ => some (.busRelease tok)
  | .over _ => none

/-- The stage after the operation's result `r` (R124): a `TimeoutError` stops the expansion and is its result; an `XferTimeout` goes to the
release and is its result; otherwise the words follow one another. The result of POT_GET is the response word; that POT_SET and DISP_READ give the
last response too is a DESIGN CHOICE (notes/assumptions/23.md). -/
def pseudoNext (r : Result) : PseudoStage → PseudoStage
  | .acquire words =>
    match r, words with
    | .okTok _, w :: ws => .send w ws
    | .okTok _, [] => .release .none
    | _, _ => .over r
  | .send _ rest =>
    match r, rest with
    | .okResp _, w :: ws => .send w ws
    | _, _ => .release r
  | .release out => .over out
  | .over out => .over out

end Sys2Proof.Machine
end

