-- ==== Sys2Proof/Safety.lean ====
section
/-! DEFINITION. The terms in which claims speak: when a step is enabled, the invariants of R74, and safe outputs. -/

namespace Sys2Proof.Machine

/-- The premises that every step but RESET's has: not halted (R11), and RESET has happened (R390). -/
abbrev Running (s : State) : Prop := s.halted = none ∧ s.booted = true

/-- The present line lets the running machine take a step of agent `a` (R9). -/
abbrev StepOf (s : State) (a : Agent) : Prop := Running s ∧ s.offer.agent = a

/-- The present line lets task `t` take micro-step `k` of the operation `i`, with control state `c` (R71): the task is idle and starts `i`, or `i` is the
operation it has in progress. -/
def AtStep (s : State) (t : Nat) (i : Instr) (k : Nat) (c : TaskCtl) : Prop :=
  StepOf s (.task t) ∧ ∃ c₀, s.task[t]? = some c₀ ∧
    ((c₀.op = none ∧ k = 0 ∧ c = { c₀ with op := some i, step := 0, locals := Locals.empty }) ∨
      (c₀.op = some i ∧ c₀.step = k ∧ c = c₀))

/-- The state `s` with task `t` idle and holding `r` as its result (R14, R71). -/
def returned (s : State) (t : Nat) (c : TaskCtl) (r : Result) : State :=
  { s with task := s.task.set t { c with op := none, result := r } }

/-- The state `s` with task `t` in its operation at micro-step `k` (R71). -/
def movedTo (s : State) (t : Nat) (c : TaskCtl) (k : Nat) : State :=
  { s with task := s.task.set t { c with step := k } }

/-- The state `s` halted with code `f` (R350). -/
def haltedWith (s : State) (f : FatalCode) : State :=
  { s with halted := some f, trace := s.trace ++ [.diagSignal f] }

/-- The task is waiting in micro-step 1 of BUS_TRANSCEIVE, whether it was issued as that operation or as a request-word form (R221). -/
def inTransfer (c : TaskCtl) : Bool :=
  decide (c.step = 1) &&
  match c.op with
  | some (.busTransceive _ _) => true
  | some (.buswGeneric _ _ _) => true
  | some (.buswPotWrite _ _ _) => true
  | some (.buswPotRead _ _) => true
  | some (.buswDispCmd _ _) => true
  | some (.buswDispWrite _ _) => true
  | some (.buswDispRead _) => true
  | _ => false

/-- The duty is in the open interval (0, period) (R257). -/
def DutySafe (s : State) : Prop := 1 ≤ s.pwmDuty ∧ s.pwmDuty < s.cfg.pwmPeriod

/-- The timer's configured pair is one the timer has (R60). -/
def ToneLegal (s : State) : Prop :=
  s.tone.div ∈ s.cfg.toneDivisors ∧ 2 ≤ s.tone.cmp ∧ s.tone.cmp ≤ s.cfg.toneCmpMax

/-- The invariant that every step keeps: R74 (i) to (iv), with the ranges of R35, R42, R43, R55, R60 and R71. -/
structure Inv (s : State) : Prop where
  cfgWf : s.cfg.wf = true
  encLegal : ∀ i : EncIx, legalState s.cfg.profiles[i] s.enc[i].st = true
  histLegal : ∀ (i : EncIx) (k : Fin 10), legalState s.cfg.profiles[i] s.enc[i].hist[k].st = true
  primaryBounded : s.qPrimary.length ≤ s.cfg.primaryDepth
  diagBounded : s.qDiag.length ≤ s.cfg.diagDepth
  eventsInRange : ∀ ev ∈ s.qPrimary, ev.inRange s.cfg = true
  tasksCounted : s.task.length = s.cfg.numTasks
  ownerIsTask : ∀ t, s.owner = some t → t < s.cfg.numTasks
  inFlightAwaited : s.xfer = .inFlight → ∃ c ∈ s.task, inTransfer c = true
  dutySafe : DutySafe s
  toneLegal : ToneLegal s

/-- The instruction is RESET. -/
def isReset : Instr → Bool
  | .reset _ _ => true
  | _ => false

/-- The instruction is an operation of the task context (R120, R375), a request-word form included. -/
def isTaskOp : Instr → Bool
  | .reset _ _ => false
  | .encIsr _ => false
  | .audioTick _ _ _ => false
  | .toneEdge => false
  | .busComplete _ => false
  | .tick => false
  | .qdDecode _ _ _ => false
  | .qdHistory _ _ _ _ _ => false
  | .ebBridge _ => false
  | .toneBestDivisor _ => false
  | .setMode _ => true
  | .setFrequency _ => true
  | .setVolume _ => true
  | .busAcquire _ => true
  | .busTransceive _ _ => true
  | .busRelease _ => true
  | .sendUiEvent _ => true
  | .recvUiEvent => true
  | .recvDiagEvent => true
  | .readOverflow => true
  | .clearOverflow => true
  | .readEncDiag _ => true
  | .buswGeneric _ _ _ => true
  | .buswPotWrite _ _ _ => true
  | .buswPotRead _ _ => true
  | .buswDispCmd _ _ => true
  | .buswDispWrite _ _ => true
  | .buswDispRead _ => true

/-- The agent of a row of R120 that only one agent performs; none for the rows of the task context. -/
def ownAgent : Instr → Option Agent
  | .reset _ _ => some .environment
  | .encIsr _ => some .encIsr
  | .audioTick _ _ _ => some .audioIsr
  | .toneEdge => some .toneTimer
  | .busComplete _ => some .busDev
  | .tick => some .tickSrc
  | .qdDecode _ _ _ => some .encIsr
  | .qdHistory _ _ _ _ _ => some .encIsr
  | .ebBridge _ => some .encIsr
  | _ => none

/-- The samples of a rotation through profile A's canonical paths (R145, R153), one path for each turn, from the rest position 11 when `at11` and
from 00 otherwise. -/
def pathsA : Bool → List Turn → List Signal
  | _, [] => []
  | false, .cw :: ds => 1 :: 3 :: pathsA true ds
  | false, .ccw :: ds => 2 :: 3 :: pathsA true ds
  | true, .cw :: ds => 2 :: 0 :: pathsA false ds
  | true, .ccw :: ds => 1 :: 0 :: pathsA false ds

/-- The samples of a rotation through profile B's full paths (R147), one path for each turn. -/
def pathsB : List Turn → List Signal
  | [] => []
  | .cw :: ds => 1 :: 3 :: 2 :: 0 :: pathsB ds
  | .ccw :: ds => 2 :: 3 :: 1 :: 0 :: pathsB ds

/-- From signal `p` on, each sample differs from the one before it in exactly one line (R148). -/
def singleLineWalk : Signal → List Signal → Bool
  | _, [] => true
  | p, q :: rest => oneLine p q && singleLineWalk q rest

/-- The signal with its two lines swapped (R100). -/
def swapLines (sig : Signal) : Signal := sig.extractLsb' 0 1 ++ sig.extractLsb' 1 1

/-- Profile A's state on the mirrored path (R144): 2 and 3, and 5 and 6, change places. -/
def mirrorA (st : StIx) : StIx :=
  if st = 2 then 3 else if st = 3 then 2 else if st = 5 then 6 else if st = 6 then 5 else st

/-- The instruction is BUS_TRANSCEIVE or one of the request-word forms that stand for it. -/
def isTransceive : Instr → Bool
  | .busTransceive _ _ => true
  | .buswGeneric _ _ _ => true
  | .buswPotWrite _ _ _ => true
  | .buswPotRead _ _ => true
  | .buswDispCmd _ _ => true
  | .buswDispWrite _ _ => true
  | .buswDispRead _ => true
  | _ => false

/-- The instruction is SET_FREQUENCY, or SET_MODE, which calls it (R261). -/
def setsTone : Instr → Bool
  | .setFrequency _ => true
  | .setMode _ => true
  | _ => false

/-- The line with which task `t` takes up `i`, no wait being cut short. -/
def taskLine (c : Channels) (t : Nat) (i : Instr) : Line :=
  { offer := { agent := .task t, late := false, order := 0 }, body := .issue (encode c i) }

/-- The line with which task `t` takes the next micro-step of its operation, no wait being cut short. -/
def taskResume (t : Nat) : Line :=
  { offer := { agent := .task t, late := false, order := 0 }, body := .resume }

/-- `n` steps of the machine (R87), stopping at the first that gives no next state. -/
def steps : Nat → State → Out
  | 0, s => .next s
  | n + 1, s =>
    match step s with
    | .next s' => steps n s'
    | .fault r => .fault r
    | .refused r => .refused r

/-- The task is in the blocked wait of BUS_ACQUIRE (R212) or the completion wait of a transfer (R221). -/
def inBusWait (c : TaskCtl) : Bool :=
  inTransfer c || (decide (c.step = 1) && match c.op with
    | some (.busAcquire _) => true
    | _ => false)

/-- Task `t` of the running machine is in one of the two waits that R213 speaks of, so its (expire) or (timeout) is enabled. -/
def BusWaiting (s : State) (t : Nat) : Prop := Running s ∧ ∃ c, s.task[t]? = some c ∧ inBusWait c = true

/-- The line takes (expire) or (timeout) of task `t`'s wait (R212, R221). -/
def takesTimeout (t : Nat) (l : Line) : Prop := l.offer.agent = .task t ∧ l.offer.late = true ∧ l.body = .resume

/-- An execution without end (R87): from each state, the step of the line that the environment chooses leads to the next. -/
def Execution (lines : Nat → Line) (states : Nat → State) : Prop :=
  ∀ n, step { states n with schedule := [lines n] } = .next (states (n + 1))

/-- R213: an execution is weakly fair when (expire) or (timeout), enabled from some point on for ever, is taken after it. The model's steps admit every
execution; a claim that a wait ends takes this as its premise (notes/assumptions/24.md). -/
def WeaklyFair (lines : Nat → Line) (states : Nat → State) : Prop :=
  ∀ t n, (∀ m, n ≤ m → BusWaiting (states m) t) → ∃ m, n ≤ m ∧ takesTimeout t (lines m)

end Sys2Proof.Machine
end

