-- ==== Sys2Proof/Certificates/Slice0/Obligations.lean ====
section
/-! DEFINITION. The statements about the model. An equation `exec i s = .next t` says at once that the instruction completes, what it writes
and that it leaves everything else as it was: `t` is written as `s` with the changed fields. -/

open Sys2Proof Sys2Proof.Machine

/-! ### Reset and the shape of a run -/

/-- R390, R394: `RESET 1, 1`, the first step, leaves every field at the value of the table, the drawn ones within their ranges. The flag
`booted`, the schedule and the present line are the model's own (notes/assumptions/3.md, 10.md). -/
def Obligations.ResetLeavesTheTable : Prop :=
  ∀ s : State, s.halted = none → s.booted = false → s.offer.agent = .environment → s.cfg.wf = true →
    ∃ t, exec (.reset true true) s = .next t ∧
      (∀ i : EncIx, t.enc[i].st = 0 ∧ t.enc[i].lastChange = 0 ∧
        ∀ k : Fin 10, t.enc[i].hist[k] = { st := 0, sig := 0, dir := none, dt := 0 }) ∧
      t.qPrimary = [] ∧ t.qDiag = [] ∧ t.overflow = false ∧ t.owner = none ∧ t.xfer = .idle ∧
      t.mode = .off ∧ t.volume = 0 ∧ t.toneValue = 0 ∧ t.pwmEnabled = false ∧ DutySafe t ∧
      t.tone.freq = 0 ∧ t.tone.running = false ∧ ToneLegal t ∧ t.tick = 0 ∧
      t.task.length = s.cfg.numTasks ∧ (∀ c ∈ t.task, c.op = none ∧ c.step = 0 ∧ c.locals = Locals.empty ∧ c.result = .none) ∧
      t.halted = none ∧ t.trace = [] ∧ t.booted = true ∧
      t.cfg = s.cfg ∧ t.schedule = s.schedule ∧ t.offer = s.offer

/-- R391, R392: a failed creation halts with its code, else a failed startup bus sequence with its own; creation is checked first. -/
def Obligations.ResetFailureHalts : Prop :=
  ∀ (createOk busOk : Bool) (s : State), s.halted = none → s.booted = false → s.offer.agent = .environment →
    (createOk && busOk) = false →
    ∃ t, exec (.reset createOk busOk) s = .next t ∧
      t.halted = some (if createOk then .startupBusUnavailable else .resourceCreationFailed) ∧
      t.trace = [.diagSignal (if createOk then .startupBusUnavailable else .resourceCreationFailed)]

/-- R390: before RESET no other step does anything, and after it RESET does nothing. That a step which is not enabled leaves the state as it
is, is the model's choice (notes/assumptions/4.md). -/
def Obligations.ResetIsFirstAndOnlyOnce : Prop :=
  (∀ (i : Instr) (s t : State), s.booted = false → isReset i = false → exec i s = .next t → t = s) ∧
  (∀ (createOk busOk : Bool) (s : State), StepOf s .environment → exec (.reset createOk busOk) s = .next s)

/-- The state after reset meets the invariant. Its drawn fields are at the values notes/assumptions/1.md chooses. -/
def Obligations.ResetStateMeetsInvariant : Prop := Inv State.reset

/-- R74 (i) to (iv) and the ranges of the fields: every step from every state that meets the invariant keeps it. -/
def Obligations.EveryStepKeepsInvariant : Prop :=
  ∀ s t : State, Inv s → step s = .next t → Inv t

/-- A step runs the instruction that its line spells, or the operation that its task has in progress; an idle task's line changes nothing of the
block. The schedule is the model's own (notes/assumptions/3.md). -/
def Obligations.StepRunsTheDecodedInstruction : Prop :=
  ∀ (s : State) (l : Line) (rest : List Line), s.halted = none → s.schedule = l :: rest →
    (∀ (w : Code) (i : Instr), l.body = .issue w → decode s.cfg.channels w = .ok i →
      step s = exec i { s with schedule := rest, offer := l.offer }) ∧
    (∀ (t : Nat) (c : TaskCtl), l.body = .resume → l.offer.agent = .task t → s.task[t]? = some c →
      (∀ i, c.op = some i → step s = exec i { s with schedule := rest, offer := l.offer }) ∧
      (c.op = none → step s = .next { s with schedule := rest, offer := l.offer }))

/-! ### Encoding -/

/-- Decoding the written form of a well-formed instruction gives it back, for every instruction and every admitted channel numbering. The packing
of a descriptor's arguments is the model's choice (notes/assumptions/2.md). -/
def Obligations.DecodeOfEncode : Prop :=
  ∀ (cfg : Config) (i : Instr), cfg.channels.distinct = true → i.wf cfg = true →
    decode cfg.channels (encode cfg.channels i) = .ok i

/-- What the decoder reads spells the same written form again; only the payload behind an unknown tag is not kept. The packing of a descriptor's
arguments is the model's choice (notes/assumptions/2.md). -/
def Obligations.EncodeOfDecode : Prop :=
  ∀ (c : Channels) (w : Code) (i : Instr), decode c w = .ok i → (∀ tag, i ≠ .sendUiEvent (.unknownTag tag)) → encode c i = w

/-- The words of 95_test_vectors.md section 1.10 and a few descriptors of section 3, under the test channels. The packing of a
descriptor's arguments is the model's choice (notes/assumptions/2.md). -/
def Obligations.WrittenWordsDecode : Prop :=
  let c : Channels := { pot := 1, dispCmd := 2, dispData := 3, dispStatus := 4 }
  decode c (.busWord 0x01010155) = .ok (.buswPotWrite true 0 0x155) ∧
  decode c (.busWord 0x01012C00) = .ok (.buswPotRead true 2) ∧
  decode c (.busWord 0x01028005) = .ok (.buswDispCmd true 5) ∧
  decode c (.busWord 0x010300AB) = .ok (.buswDispWrite true 0xAB) ∧
  decode c (.busWord 0x01034000) = .ok (.buswDispRead true) ∧
  decode c (.busWord 0x0003C000) = .ok (.buswGeneric false 3 0xC000) ∧
  decode c (.descriptor 0x0301) = .ok (.encIsr 0x03) ∧
  decode c (.descriptor 0xFF12) = .ok (.setVolume 255) ∧
  decode c (.descriptor 0x01B811) = .ok (.setFrequency 440)

/-- R121: a code outside the map of R120 spells no operation, and the model refuses it. How a line spells a descriptor is the model's choice (notes/assumptions/2.md,
3.md). -/
def Obligations.UnknownCodeIsRefused : Prop :=
  ∀ (s : State) (l : Line) (rest : List Line) (d : Nat), s.halted = none → s.schedule = l :: rest → l.body = .issue (.descriptor d) →
    d % 256 ∉ [0x00, 0x01, 0x02, 0x03, 0x04, 0x05, 0x10, 0x11, 0x12, 0x20, 0x21, 0x22, 0x30, 0x31, 0x32, 0x33, 0x34, 0x35,
      0x50, 0x51, 0x52, 0x53] →
    step s = .refused (.undecodable (.unknownCode (d % 256)))

/-- R112: the fields of an assembled word, the number its shifts make, and its clear reserved bits (R111). -/
def Obligations.BusWordFields : Prop :=
  ∀ (last : Bool) (ch : BitVec 4) (p : U16),
    wordLast (assembleWord last ch p) = last ∧ wordCh (assembleWord last ch p) = ch ∧ wordPayload (assembleWord last ch p) = p ∧
    (assembleWord last ch p).toNat = last.toNat * 2 ^ 24 + ch.toNat * 2 ^ 16 + p.toNat ∧
    reservedClear (assembleWord last ch p) = true

/-- R121, R375, U6: on the running machine, an operation that only one agent performs is refused to every other agent, and a task operation to every
agent that is no task; so is TONE_BEST_DIVISOR. That the function rows QD_DECODE, QD_HISTORY and EB_BRIDGE belong to the encoder interrupt and
TONE_BEST_DIVISOR to a task is the model's choice (notes/assumptions/6.md). -/
def Obligations.WrongContextIsRefused : Prop :=
  ∀ (i : Instr) (s : State), Running s →
    (∀ a, ownAgent i = some a → s.offer.agent ≠ a → exec i s = .refused .wrongContext) ∧
    (isTaskOp i = true ∨ (∃ hz, i = .toneBestDivisor hz) → (∀ t, s.offer.agent ≠ .task t) → exec i s = .refused .wrongContext)

/-! ### The quadrature decoder -/

/-- R141, R143: QD_DECODE of a legal state answers the cell of the profile's table, which is total and leads to a legal state; of any other state it is
refused (U1). Its answer stands in the model's own field (notes/assumptions/6.md). -/
def Obligations.QdDecodeAnswersTheCell : Prop :=
  ∀ (p : EncoderProfile) (st : StIx) (sig : Signal) (s : State), StepOf s .encIsr → s.cfg.wf = true →
    (legalState p st = true →
      ∃ dir next, Table.cell (tableOf s.cfg p) st sig = some (dir, next) ∧ legalState p next = true ∧
        exec (.qdDecode p st sig) s = .next { s with fnResult := .decoded next dir }) ∧
    (legalState p st = false → exec (.qdDecode p st sig) s = .refused .illegalEncoderState)

/-- R153: with `X = 4` profile A emits each path's direction at its end and nothing before it, for any concatenation of the canonical paths from
state 1 at 00 or state 4 at 11; with `X = 1` continuous rotation either way emits once per two completed paths. -/
def Obligations.ProfileAEmitsOncePerPath : Prop :=
  (∀ (y : StIx) (ds : List Turn) (at11 : Bool),
    Table.run (tableA 4 y) (if at11 then 4 else 1) (pathsA at11 ds) =
      (ds.flatMap fun d => [none, some d], if (at11 != decide (ds.length % 2 = 1)) then 4 else 1)) ∧
  (∀ (y : StIx) (d : Turn) (n : Nat),
    Table.run (tableA 1 y) 1 (pathsA false (List.replicate (2 * n) d)) =
      ((List.replicate n [none, some d, none, none]).flatten, 1))

/-- R147, R148: the default Profile B table emits exactly one direction per full path, at its last sample, for any concatenation of paths; no single-line
walk from 00 that avoids 11 emits; and every emission, from any state, falls on a sample of 00. -/
def Obligations.ProfileBEmitsOncePerFullPath : Prop :=
  (∀ ds : List Turn, Table.run tableB 1 (pathsB ds) = (ds.flatMap fun d => [none, none, none, some d], 1)) ∧
  (∀ sigs : List Signal, singleLineWalk 0 sigs = true → 3 ∉ sigs → ∀ d ∈ (Table.run tableB 1 sigs).1, d = none) ∧
  (∀ (st : StIx) (sigs : List Signal) (k : Nat) (d : Turn), (Table.run tableB st sigs).1[k]? = some (some d) → sigs[k]? = some 0)

/-- R149: each non-lost state has one position signal, the one every cell that leads to it stands under; at it the state keeps itself and emits nothing. With the
literal `X = 1`, state 1 can be entered on signal 11, and a repeated 11 then moves it to 4. -/
def Obligations.PositionSignalKeepsState : Prop :=
  let posA : List (StIx × Signal) := [(1, 0), (2, 1), (3, 2), (4, 3), (5, 1), (6, 2)]
  let posB : List (StIx × Signal) := [(1, 0), (2, 1), (3, 3), (4, 2), (5, 2), (6, 3), (7, 1)]
  (∀ y : StIx, ∀ p ∈ posA, Table.cell (tableA 4 y) p.1 p.2 = some (none, p.1)) ∧
  (∀ p ∈ posB, Table.cell tableB p.1 p.2 = some (none, p.1)) ∧
  (∀ (y st next : StIx) (sig : Signal) (dir : Direction), y = 0 ∨ y = 1 → Table.cell (tableA 4 y) st sig = some (dir, next) → next ≠ 0 →
    (next, sig) ∈ posA) ∧
  (∀ (st next : StIx) (sig : Signal) (dir : Direction), Table.cell tableB st sig = some (dir, next) → next ≠ 0 → (next, sig) ∈ posB) ∧
  (∀ y : StIx, Table.cell (tableA 1 y) 2 3 = some (some .cw, 1) ∧ Table.cell (tableA 1 y) 3 3 = some (some .ccw, 1) ∧
    Table.cell (tableA 1 y) 1 3 = some (none, 4))

/-- R100: swapping the two lines swaps CW and CCW for profile A's table, along every sequence of samples. -/
def Obligations.SwappedLinesSwapDirections : Prop :=
  (∀ line1 line0 : Bool, signalOfLines line0 line1 = swapLines (signalOfLines line1 line0)) ∧
  (∀ (y st : StIx) (sigs : List Signal), y = 0 ∨ y = 1 →
    Table.run (tableA 4 y) (mirrorA st) (sigs.map swapLines) =
      ((Table.run (tableA 4 y) st sigs).1.map (Option.map flipTurn), mirrorA (Table.run (tableA 4 y) st sigs).2))

/-- R150: QD_HISTORY pushes an entry when the signal differs from the newest recorded one, dropping the oldest, and writes nothing otherwise. A state
outside the profile's range is refused (U1). That QD_HISTORY is a step of its own, and that its empty answer stands in the model's own field,
are the model's choices (notes/assumptions/6.md). -/
def Obligations.QdHistoryRecordsChanges : Prop :=
  ∀ (i : EncIx) (st2 : StIx) (sig : Signal) (dir : Direction) (now : U32) (s : State), StepOf s .encIsr →
    (legalState s.cfg.profiles[i] st2 = false → exec (.qdHistory i st2 sig dir now) s = .refused .illegalEncoderState) ∧
    (legalState s.cfg.profiles[i] st2 = true → sig = s.enc[i].hist[0].sig →
      exec (.qdHistory i st2 sig dir now) s = .next { s with fnResult := .none }) ∧
    (legalState s.cfg.profiles[i] st2 = true → sig ≠ s.enc[i].hist[0].sig →
      ∃ e : EncState, exec (.qdHistory i st2 sig dir now) s = .next { s with enc := s.enc.set i e, fnResult := .none } ∧
        e.st = s.enc[i].st ∧ e.hist[0] = { st := st2, sig := sig, dir := dir, dt := now - s.enc[i].lastChange } ∧
        (∀ k : Fin 9, e.hist[k.val + 1] = s.enc[i].hist[k.val]) ∧ e.lastChange = now)

/-- R160: the twelve micro-steps of READ_ENC_DIAG, each reading one field; an index above 3 is refused (R122), and so is, at step 0, a decoder
state outside its profile's range (R32, U1). That step 0 alone refuses it, and under which name, is the model's reading
(notes/assumptions/12.md, 25.md). -/
def Obligations.ReadEncDiagReadsOneFieldAStep : Prop :=
  ∀ (idx : U8) (s : State) (t k : Nat) (c : TaskCtl), AtStep s t (.readEncDiag idx) k c →
    (4 ≤ idx.toNat → exec (.readEncDiag idx) s = .refused .argOutOfRange) ∧
    (∀ i : EncIx, idx.toNat = i.val →
      (k = 0 → legalState s.cfg.profiles[i] s.enc[i].st = false → exec (.readEncDiag idx) s = .refused .illegalEncoderState) ∧
      (k = 0 → legalState s.cfg.profiles[i] s.enc[i].st = true → exec (.readEncDiag idx) s =
        .next (movedTo s t { c with locals := { c.locals with snap := { c.locals.snap with st := s.enc[i].st } } } 1)) ∧
      (∀ j : Fin 10, k = j.val + 1 → exec (.readEncDiag idx) s =
        .next (movedTo s t { c with locals := { c.locals with
          snap := { c.locals.snap with hist := c.locals.snap.hist.set j s.enc[i].hist[j] } } } (k + 1))) ∧
      (k = 11 → ∃ l : Locals, exec (.readEncDiag idx) s =
        .next (returned s t { c with locals := l } (.snapshot { c.locals.snap with lastChange := s.enc[i].lastChange }))))

/-- R160: with no other agent's step between its micro-steps, READ_ENC_DIAG returns the encoder's state, ring and last-change time, or
refuses at its first step if that state is outside the profile's range (R32, U1; the model's reading, notes/assumptions/25.md). The schedule and its
resumed lines are the model's own (notes/assumptions/3.md). -/
def Obligations.UninterruptedReadEncDiagReturnsTheEncoder : Prop :=
  ∀ (idx : U8) (i : EncIx) (s : State) (t : Nat) (c : TaskCtl) (o : Offer) (rest : List Line),
    idx.toNat = i.val → Running s → o.agent = .task t → s.task[t]? = some c → c.op = none →
    s.schedule = wholeLine s.cfg.channels o (.readEncDiag idx) ++ rest →
    (legalState s.cfg.profiles[i] s.enc[i].st = false → steps 1 s = .refused .illegalEncoderState) ∧
    (legalState s.cfg.profiles[i] s.enc[i].st = true →
      ∃ c' : TaskCtl, steps 12 s = .next { s with schedule := rest, offer := o, task := s.task.set t c' } ∧
        c'.op = none ∧
        c'.result = .snapshot { st := s.enc[i].st, hist := s.enc[i].hist, lastChange := s.enc[i].lastChange })

/-! ### The encoder interrupt and the event bridge -/

/-- R180, R150: one interrupt decodes every encoder once from its own state and sample, stores the next state and records a changed signal; nothing but the
encoders, the two queues, the overflow flag and the trace changes. -/
def Obligations.EncIsrSamplesEveryEncoder : Prop :=
  ∀ (sigs : U8) (s : State), StepOf s .encIsr → s.cfg.wf = true →
    (∀ i : EncIx, legalState s.cfg.profiles[i] s.enc[i].st = true) →
    ∃ t, exec (.encIsr sigs) s = .next t ∧
      t = { s with enc := t.enc, qPrimary := t.qPrimary, qDiag := t.qDiag, overflow := t.overflow, trace := t.trace } ∧
      ∀ i : EncIx, ∃ dir next,
        Table.cell (tableOf s.cfg s.cfg.profiles[i]) s.enc[i].st (sigs.extractLsb' (2 * i.val) 2) = some (dir, next) ∧
        t.enc[i].st = next ∧
        (sigs.extractLsb' (2 * i.val) 2 = s.enc[i].hist[0].sig →
          t.enc[i].hist = s.enc[i].hist ∧ t.enc[i].lastChange = s.enc[i].lastChange) ∧
        (sigs.extractLsb' (2 * i.val) 2 ≠ s.enc[i].hist[0].sig →
          t.enc[i].lastChange = s.tick ∧
          t.enc[i].hist[0] = { st := next, sig := sigs.extractLsb' (2 * i.val) 2, dir := dir, dt := s.tick - s.enc[i].lastChange } ∧
          ∀ k : Fin 9, t.enc[i].hist[k.val + 1] = s.enc[i].hist[k.val])

/-- R180 to R185, R188: the interrupt's moves are one for each encoder that decoded a direction, stamped with the tick, in some order; as many as fit
enter each queue; a primary send that fails sets the overflow flag; the yield is requested exactly when a send that succeeds meets a receiver
held at its empty queue, which is how the model reads R185 (notes/assumptions/11.md). -/
def Obligations.EncIsrSendsItsMoves : Prop :=
  ∀ (sigs : U8) (s t : State), StepOf s .encIsr → exec (.encIsr sigs) s = .next t →
    ∃ ms : List EncoderMove,
      (ms.map EncoderMove.enc).Nodup ∧ ms.length ≤ 4 ∧
      (∀ m : EncoderMove, m ∈ ms ↔ m.time = s.tick ∧ ∃ next,
        Table.cell (tableOf s.cfg s.cfg.profiles[m.enc]) s.enc[m.enc].st (sigs.extractLsb' (2 * m.enc.val) 2) =
          some (some m.dir, next)) ∧
      t.qPrimary = s.qPrimary ++ (ms.take (s.cfg.primaryDepth - s.qPrimary.length)).map .encoderMove ∧
      t.qDiag = s.qDiag ++ ms.take (s.cfg.diagDepth - s.qDiag.length) ∧
      t.overflow = (s.overflow || decide (s.cfg.primaryDepth - s.qPrimary.length < ms.length)) ∧
      ((ms ≠ [] ∧
          ((s.qPrimary = [] ∧ 0 < s.cfg.primaryDepth ∧ ∃ c ∈ s.task, c.op = some .recvUiEvent ∧ c.step = 0) ∨
           (s.qDiag = [] ∧ 0 < s.cfg.diagDepth ∧ ∃ c ∈ s.task, c.op = some .recvDiagEvent ∧ c.step = 0))) →
        t.trace = s.trace ++ [.yieldRequest]) ∧
      (¬(ms ≠ [] ∧
          ((s.qPrimary = [] ∧ 0 < s.cfg.primaryDepth ∧ ∃ c ∈ s.task, c.op = some .recvUiEvent ∧ c.step = 0) ∨
           (s.qDiag = [] ∧ 0 < s.cfg.diagDepth ∧ ∃ c ∈ s.task, c.op = some .recvDiagEvent ∧ c.step = 0))) →
        t.trace = s.trace)

/-- R181: the moves of one interrupt come in any order: every choice gives a permutation of them, and every permutation of them is given by some choice. That
the line carries the choice, as one of the 24 orders of the encoders, is the model's own (notes/assumptions/3.md, 14.md). -/
def Obligations.MoveOrderIsAnyPermutation : Prop :=
  (∀ (sigs : U8) (s : State),
    (∀ o : Fin 24, (encMoves { s with offer := { s.offer with order := o } } sigs).Perm (encMoves s sigs)) ∧
    (∀ l : List EncoderMove, l.Perm (encMoves s sigs) → ∃ o : Fin 24, encMoves { s with offer := { s.offer with order := o } } sigs = l)) ∧
  (∀ l : List EncIx, l.Perm [0, 1, 2, 3] → ∃ o : Fin 24, encOrder o = l)

/-- R182 to R185: EB_BRIDGE puts as many moves as fit at the tail of each queue, in the order given, sets the overflow flag when a primary send fails, and
returns whether a send met a receiver held at its empty queue; a list that is no operand of it is refused. The yield flag stands in the model's own field
(notes/assumptions/6.md), and that a receiver waits only at an empty queue is deduced (notes/assumptions/11.md). -/
def Obligations.EbBridgeFillsTheQueues : Prop :=
  ∀ (ms : List EncoderMove) (s : State), StepOf s .encIsr →
    (movesWf ms = true → ∃ y : Bool, (exec (.ebBridge ms) s = .next { s with
        qPrimary := s.qPrimary ++ (ms.take (s.cfg.primaryDepth - s.qPrimary.length)).map .encoderMove
        qDiag := s.qDiag ++ ms.take (s.cfg.diagDepth - s.qDiag.length)
        overflow := s.overflow || decide (s.cfg.primaryDepth - s.qPrimary.length < ms.length)
        fnResult := .yieldFlag y }) ∧
      (y = true ↔ ms ≠ [] ∧
        ((s.qPrimary = [] ∧ 0 < s.cfg.primaryDepth ∧ ∃ c ∈ s.task, c.op = some .recvUiEvent ∧ c.step = 0) ∨
         (s.qDiag = [] ∧ 0 < s.cfg.diagDepth ∧ ∃ c ∈ s.task, c.op = some .recvDiagEvent ∧ c.step = 0)))) ∧
    (movesWf ms = false → exec (.ebBridge ms) s = .refused .argOutOfRange)

/-- R40, R183, R327: whatever instruction runs, a set overflow flag is cleared by CLEAR_OVERFLOW alone (and by RESET), and a clear one is set by the event
bridge alone. -/
def Obligations.OverflowIsSticky : Prop :=
  ∀ (i : Instr) (s t : State), exec i s = .next t → isReset i = false →
    (s.overflow = true → t.overflow = false → i = .clearOverflow) ∧
    (s.overflow = false → t.overflow = true → (∃ sigs, i = .encIsr sigs) ∨ ∃ ms, i = .ebBridge ms)

/-- R37: outside RESET, the state of the encoders changes in steps of the encoder interrupt alone. -/
def Obligations.EncodersChangeOnlyInTheirInterrupt : Prop :=
  ∀ (i : Instr) (s t : State), exec i s = .next t → isReset i = false → t.enc ≠ s.enc → s.offer.agent = .encIsr

/-! ### The serial bus arbiter -/

/-- R210, R212: BUS_ACQUIRE's micro-step 0 takes a free bus whatever the timeout, fails at once on a busy bus with timeout 0, and waits otherwise; in the
wait, (expire) may be taken at any time, (grant) only when the bus is free, and while it is not the task stays where it is. That a line
carries the choice between the two, and that a transition which is not enabled leaves the state as it is, are the model's choices
(notes/assumptions/3.md, 4.md). -/
def Obligations.BusAcquireMicroSteps : Prop :=
  ∀ (ms : U32) (s : State) (t : Nat) (c : TaskCtl),
    (AtStep s t (.busAcquire ms) 0 c →
      (s.owner = none → exec (.busAcquire ms) s = .next (returned { s with owner := some t } t c (.okTok t))) ∧
      (s.owner ≠ none → ms = 0 → exec (.busAcquire ms) s = .next (returned s t c .timeoutError)) ∧
      (s.owner ≠ none → ms ≠ 0 → exec (.busAcquire ms) s = .next (movedTo s t c 1))) ∧
    (AtStep s t (.busAcquire ms) 1 c →
      (s.offer.late = true → exec (.busAcquire ms) s = .next (returned s t c .timeoutError)) ∧
      (s.offer.late = false → s.owner = none →
        exec (.busAcquire ms) s = .next (returned { s with owner := some t } t c (.okTok t))) ∧
      (s.offer.late = false → s.owner ≠ none → exec (.busAcquire ms) s = .next { s with task := s.task.set t c }))

/-- R220, R362: micro-step 0 of BUS_TRANSCEIVE sends the word of the owner that holds its token; without ownership it is fatal, whatever the word; with it, a
word with a reserved bit is refused. That the raising task stays in its operation is the model's deduction (notes/assumptions/9.md). -/
def Obligations.BusTransceiveStart : Prop :=
  ∀ (tok word : U32) (s : State) (t : Nat) (c : TaskCtl), AtStep s t (.busTransceive tok word) 0 c →
    (s.owner = some t → tok.toNat = t → word &&& 0xFEF00000 = 0 →
      exec (.busTransceive tok word) s = .next (movedTo
        { s with txReg := word, xfer := .inFlight, trace := s.trace ++ [.busTx word] } t c 1)) ∧
    (s.owner = some t → tok.toNat = t → word &&& 0xFEF00000 ≠ 0 → exec (.busTransceive tok word) s = .refused .reservedWordBits) ∧
    (s.owner ≠ some t ∨ tok.toNat ≠ t → exec (.busTransceive tok word) s =
      .next (haltedWith { s with task := s.task.set t c } .transceiveWithoutOwnership))

/-- R221, R222: in the completion wait of BUS_TRANSCEIVE and of every request-word form, (timeout) may be taken at any time and returns the stale response;
(ready) only when the transfer is done; while it is not, the task stays where it is. Ownership is unchanged. That a line carries the choice, that a
transition which is not enabled leaves the state as it is, and that a request word is such an operation, are the model's choices
(notes/assumptions/3.md, 4.md, 5.md). -/
def Obligations.BusTransceiveWait : Prop :=
  ∀ (i : Instr) (s : State) (t : Nat) (c : TaskCtl), isTransceive i = true → AtStep s t i 1 c →
    (s.offer.late = false → s.xfer = .done → exec i s = .next (returned { s with xfer := .idle } t c (.okResp s.rxReg))) ∧
    (s.offer.late = true → s.xfer = .done → exec i s = .next (returned { s with xfer := .idle } t c (.xferTimeout s.rxReg))) ∧
    (s.offer.late = true → s.xfer ≠ .done → exec i s = .next (returned { s with xfer := .stale } t c (.xferTimeout s.rxReg))) ∧
    (s.offer.late = false → s.xfer ≠ .done → exec i s = .next { s with task := s.task.set t c })

/-- R225: BUS_RELEASE frees the bus of its owner; without ownership it is fatal. That the raising task stays in its operation is the model's
deduction (notes/assumptions/9.md). -/
def Obligations.BusReleaseFreesTheBus : Prop :=
  ∀ (tok : U32) (s : State) (t : Nat) (c : TaskCtl), AtStep s t (.busRelease tok) 0 c →
    (s.owner = some t → tok.toNat = t → exec (.busRelease tok) s = .next (returned { s with owner := none } t c .none)) ∧
    (s.owner ≠ some t ∨ tok.toNat ≠ t →
      exec (.busRelease tok) s = .next (haltedWith { s with task := s.task.set t c } .busReleaseFailed))

/-- R230: BUS_COMPLETE delivers the response of a transfer in flight or abandoned. Where it is not enabled nothing changes, which is the model's
choice (notes/assumptions/4.md). -/
def Obligations.BusCompleteDelivers : Prop :=
  ∀ (resp : U32) (s : State), StepOf s .busDev →
    (s.xfer = .inFlight → exec (.busComplete resp) s = .next { s with rxReg := resp, xfer := .done }) ∧
    (s.xfer = .stale → exec (.busComplete resp) s = .next { s with rxReg := resp, xfer := .idle }) ∧
    (s.xfer = .idle ∨ s.xfer = .done → exec (.busComplete resp) s = .next s)

/-- R113 to R117, R220: a request-word form issued by the bus's owner sends the word of its fields, with the configured channel, and waits; issued by any other
task it is fatal. That such a line stands for BUS_TRANSCEIVE with the task's own token, and that the raising task stays in its operation, are the
model's (notes/assumptions/5.md, 9.md). -/
def Obligations.RequestWordFormsSendTheirWords : Prop :=
  ∀ (last : Bool) (s : State) (t : Nat) (c : TaskCtl),
    let sends (i : Instr) (word : Nat) : Prop := AtStep s t i 0 c →
      (s.owner = some t → exec i s = .next (movedTo
        { s with txReg := BitVec.ofNat 32 word, xfer := .inFlight, trace := s.trace ++ [.busTx (BitVec.ofNat 32 word)] } t c 1)) ∧
      (s.owner ≠ some t → exec i s = .next (haltedWith { s with task := s.task.set t c } .transceiveWithoutOwnership))
    let base (ch : BitVec 4) : Nat := last.toNat * 2 ^ 24 + ch.toNat * 2 ^ 16
    (∀ (ch : BitVec 4) (p : U16), sends (.buswGeneric last ch p) (base ch + p.toNat)) ∧
    (∀ (addr : BitVec 4) (value : BitVec 9),
      sends (.buswPotWrite last addr value) (base s.cfg.channels.pot + addr.toNat * 2 ^ 12 + value.toNat)) ∧
    (∀ addr : BitVec 4, sends (.buswPotRead last addr) (base s.cfg.channels.pot + addr.toNat * 2 ^ 12 + 0x0C00)) ∧
    (∀ index : U8, sends (.buswDispCmd last index) (base s.cfg.channels.dispCmd + 0x8000 + index.toNat)) ∧
    (∀ value : U8, sends (.buswDispWrite last value) (base s.cfg.channels.dispData + value.toNat)) ∧
    sends (.buswDispRead last) (base s.cfg.channels.dispData + 0x4000)

/-- R240: the owner changes from none to `some t` only in BUS_ACQUIRE by `t`, and from `some t` to none only in BUS_RELEASE by `t` (RESET apart). -/
def Obligations.OwnerChangesOnlyByAcquireAndRelease : Prop :=
  ∀ (i : Instr) (s u : State), exec i s = .next u → isReset i = false → u.owner ≠ s.owner →
    (∃ ms t, i = .busAcquire ms ∧ s.offer.agent = .task t ∧ s.owner = none ∧ u.owner = some t) ∨
    (∃ tok t, i = .busRelease tok ∧ tok.toNat = t ∧ s.offer.agent = .task t ∧ s.owner = some t ∧ u.owner = none)

/-- R407: after a timed-out transfer, the response that completes the abandoned one is what the next transceive returns, and the slot is idle after it. The schedule
is the model's own (notes/assumptions/3.md). -/
def Obligations.AbandonedResponseReachesTheNextCaller : Prop :=
  ∀ (s : State) (t : Nat) (c : TaskCtl) (tok word r : U32) (rest : List Line), Running s → s.task[t]? = some c → c.op = none →
    s.owner = some t → tok.toNat = t → word &&& 0xFEF00000 = 0 → s.xfer = .stale →
    s.schedule = [taskLine s.cfg.channels t (.busTransceive tok word), lineOf (encode s.cfg.channels (.busComplete r)), taskResume t] ++ rest →
    ∃ (u : State) (c' : TaskCtl), steps 3 s = .next u ∧ u.task[t]? = some c' ∧ c'.op = none ∧ c'.result = .okResp r ∧ u.xfer = .idle

/-! ### The audio engine -/

/-- R251, R252: a tick from any other source than the expected one halts before any output write, whatever the mode; in mode Off an expected tick writes
nothing. -/
def Obligations.AudioTickMismatchHaltsAndOffIsSilent : Prop :=
  ∀ (src : AudioSrc) (adc0 adc1 : U12) (s : State), StepOf s .audioIsr →
    (src ≠ .expected → exec (.audioTick src adc0 adc1) s = .next (haltedWith s .audioSourceMismatch)) ∧
    (src = .expected → s.mode = .off → exec (.audioTick src adc0 adc1) s = .next s)

/-- R253, R254: in AdcPassthrough the DAC is written with half the sum of the samples, then the duty with the proportional value clamped to the open interval,
each with its trace event. -/
def Obligations.AudioTickPassesTheSumThrough : Prop :=
  ∀ (adc0 adc1 : U12) (s : State), StepOf s .audioIsr → s.mode = .adcPassthrough → 4 ≤ s.cfg.pwmPeriod →
    ∃ (dac : U12) (duty : Nat), exec (.audioTick .expected adc0 adc1) s =
        .next { s with dacOut := dac, pwmDuty := duty, trace := s.trace ++ [.dacWrite dac, .dutyWrite duty] } ∧
      dac.toNat = (adc0.toNat + adc1.toNat) / 2 ∧
      duty = max 1 (min (s.cfg.pwmPeriod - 1) ((adc0.toNat + adc1.toNat) * s.cfg.pwmPeriod / 2 ^ 13))

/-- R255, R256: in either tone mode the DAC is written with the midpoint plus or minus the volume's share of the half scale, by the phase, then the duty with the
offset scaled to the half period; neither value leaves its range, so the duty's clamp never changes it. -/
def Obligations.AudioTickWritesTheToneSample : Prop :=
  ∀ (adc0 adc1 : U12) (s : State), StepOf s .audioIsr → s.mode = .toneValue ∨ s.mode = .toneFrequency → 4 ≤ s.cfg.pwmPeriod →
    ∃ (dac : U12) (duty off poff : Nat), exec (.audioTick .expected adc0 adc1) s =
        .next { s with dacOut := dac, pwmDuty := duty, trace := s.trace ++ [.dacWrite dac, .dutyWrite duty] } ∧
      off = 2047 * s.volume.toNat / 255 ∧ off ≤ 2047 ∧
      poff = off * (s.cfg.pwmPeriod / 2 - 1) / 2047 ∧ poff ≤ s.cfg.pwmPeriod / 2 - 1 ∧
      (s.tone.phase = true → dac.toNat = 2048 + off ∧ duty = s.cfg.pwmPeriod / 2 + poff) ∧
      (s.tone.phase = false → dac.toNat = 2048 - off ∧ duty = s.cfg.pwmPeriod / 2 - poff) ∧
      1 ≤ duty ∧ duty ≤ s.cfg.pwmPeriod - 1

/-- R257: every duty that AUDIO_TICK writes lies in 1..PWM_PERIOD-1, whatever the mode and the operands. -/
def Obligations.DutyWritesStayInTheOpenInterval : Prop :=
  ∀ (src : AudioSrc) (adc0 adc1 : U12) (s t : State), 4 ≤ s.cfg.pwmPeriod → exec (.audioTick src adc0 adc1) s = .next t →
    (t.pwmDuty = s.pwmDuty ∨ (1 ≤ t.pwmDuty ∧ t.pwmDuty ≤ s.cfg.pwmPeriod - 1)) ∧
    ∃ es, t.trace = s.trace ++ es ∧ ∀ d, .dutyWrite d ∈ es → 1 ≤ d ∧ d ≤ s.cfg.pwmPeriod - 1

/-- R260 to R264: the micro-steps of SET_MODE: the no-op for the current mode, the nested SET_FREQUENCY(0), the mode write, the output enable.
That the nested return and the move to step 2 are one micro-step is the model's deduction (notes/assumptions/18.md), the count of draws its own
field (notes/assumptions/8.md). -/
def Obligations.SetModeMicroSteps : Prop :=
  ∀ (new : AudioMode) (s : State) (t : Nat) (c : TaskCtl),
    (AtStep s t (.setMode new) 0 c → new = s.mode → exec (.setMode new) s = .next (returned s t c .none)) ∧
    (AtStep s t (.setMode new) 0 c → new ≠ s.mode → exec (.setMode new) s = .next (movedTo s t c 1)) ∧
    (AtStep s t (.setMode new) 1 c → c.locals.nested = 0 → s.tone.freq = 0 → exec (.setMode new) s = .next (movedTo s t c 2)) ∧
    (AtStep s t (.setMode new) 1 c → c.locals.nested = 0 → s.tone.freq ≠ 0 → exec (.setMode new) s =
      .next { s with task := s.task.set t { c with locals := { c.locals with nested := 1 } } }) ∧
    (AtStep s t (.setMode new) 1 c → c.locals.nested = 1 → ∃ ph : Bool, exec (.setMode new) s =
      .next { s with tone := { s.tone with running := false, phase := ph }, trace := s.trace ++ [.timerStop], drawCount := s.drawCount + 1,
                     task := s.task.set t { c with locals := { c.locals with nested := 2 } } }) ∧
    (AtStep s t (.setMode new) 1 c → c.locals.nested = 2 → exec (.setMode new) s =
      .next (movedTo { s with tone := { s.tone with freq := 0 } } t c 2)) ∧
    (AtStep s t (.setMode new) 2 c → exec (.setMode new) s = .next (movedTo { s with mode := new } t c 3)) ∧
    (AtStep s t (.setMode new) 3 c → new = .off → exec (.setMode new) s =
      .next (returned { s with pwmEnabled := false, trace := s.trace ++ [.pwmDisable] } t c .none)) ∧
    (AtStep s t (.setMode new) 3 c → new ≠ .off → exec (.setMode new) s =
      .next (returned { s with pwmEnabled := true, trace := s.trace ++ [.pwmEnable] } t c .none))

/-- R260, R261, R265: SET_MODE to another mode, with no other agent's step between its micro-steps, stops a tone that runs and records frequency 0, then
writes the mode, then the enable, and returns. The schedule is the model's own (notes/assumptions/3.md). -/
def Obligations.UninterruptedSetModeZeroesTheTone : Prop :=
  ∀ (new : AudioMode) (s : State) (t : Nat) (c : TaskCtl) (o : Offer) (rest : List Line),
    Running s → o.agent = .task t → s.task[t]? = some c → c.op = none → new ≠ s.mode →
    s.schedule = wholeLine s.cfg.channels o (.setMode new) ++ rest →
    ∃ (u : State) (c' : TaskCtl), steps 6 s = .next u ∧ u.task = s.task.set t c' ∧ c'.op = none ∧
      u.mode = new ∧ u.tone.freq = 0 ∧ (s.tone.freq ≠ 0 → u.tone.running = false) ∧
      (s.tone.freq = 0 → u.tone = s.tone) ∧ u.pwmEnabled = decide (new ≠ .off) ∧
      u.trace = s.trace ++ (if s.tone.freq = 0 then [] else [.timerStop]) ++ [if new = .off then .pwmDisable else .pwmEnable] ∧
      u.schedule = rest

/-- R270: SET_VOLUME writes the volume and nothing else. -/
def Obligations.SetVolumeWritesTheVolume : Prop :=
  ∀ (vol : U8) (s : State) (t : Nat) (c : TaskCtl), AtStep s t (.setVolume vol) 0 c →
    exec (.setVolume vol) s = .next (returned { s with volume := vol } t c .none)

/-! ### The tone generator -/

/-- R290 to R292: the micro-steps of SET_FREQUENCY: the idempotence guard, the stop, whose level is drawn, then the record of 0 or the restart with the best pair
at the start phase. The count of draws is the model's own field (notes/assumptions/8.md). -/
def Obligations.SetFrequencyMicroSteps : Prop :=
  ∀ (hz : U32) (s : State) (t : Nat) (c : TaskCtl),
    (AtStep s t (.setFrequency hz) 0 c → hz = s.tone.freq → exec (.setFrequency hz) s = .next (returned s t c .none)) ∧
    (AtStep s t (.setFrequency hz) 0 c → hz ≠ s.tone.freq → exec (.setFrequency hz) s = .next (movedTo s t c 1)) ∧
    (AtStep s t (.setFrequency hz) 1 c → ∃ ph : Bool, exec (.setFrequency hz) s =
      .next (movedTo { s with tone := { s.tone with running := false, phase := ph }, trace := s.trace ++ [.timerStop],
                              drawCount := s.drawCount + 1 } t c 2)) ∧
    (AtStep s t (.setFrequency hz) 2 c → hz = 0 → exec (.setFrequency hz) s =
      .next (returned { s with tone := { s.tone with freq := 0 } } t c .none)) ∧
    (AtStep s t (.setFrequency hz) 2 c → hz ≠ 0 → ∃ d k : Nat, bestDivisor s.cfg hz.toNat = (d, k) ∧ exec (.setFrequency hz) s =
      .next (returned { s with tone := { freq := hz, running := true, div := d, cmp := k, phase := s.cfg.toneStartPhase },
                               trace := s.trace ++ [.timerStart d k] } t c .none))

/-- R290 to R292, R301: SET_FREQUENCY to another frequency, with no other agent's step between its micro-steps, leaves that frequency recorded and the timer
running exactly when it is not 0. The schedule is the model's own (notes/assumptions/3.md). -/
def Obligations.UninterruptedSetFrequencyRecordsAndRuns : Prop :=
  ∀ (hz : U32) (s : State) (t : Nat) (c : TaskCtl) (o : Offer) (rest : List Line),
    Running s → o.agent = .task t → s.task[t]? = some c → c.op = none → hz ≠ s.tone.freq →
    s.schedule = wholeLine s.cfg.channels o (.setFrequency hz) ++ rest →
    ∃ (u : State) (c' : TaskCtl), steps 3 s = .next u ∧ u.task = s.task.set t c' ∧ c'.op = none ∧
      u.tone.freq = hz ∧ u.tone.running = decide (hz ≠ 0) ∧ (hz ≠ 0 → u.tone.phase = s.cfg.toneStartPhase) ∧
      u.trace = s.trace ++ (if hz = 0 then [.timerStop] else [.timerStop, .timerStart u.tone.div u.tone.cmp])

/-- R293: the search answers a pair the timer has, of least error among all of them, and on ties the smaller divisor, then the smaller compare value: it equals
an exhaustive search. -/
def Obligations.BestDivisorIsTheExhaustiveBest : Prop :=
  ∀ (cfg : Config) (hz d k : Nat), cfg.wf = true → 1 ≤ hz → bestDivisor cfg hz = (d, k) →
    d ∈ cfg.toneDivisors ∧ 2 ≤ k ∧ k ≤ cfg.toneCmpMax ∧
    ∀ d' ∈ cfg.toneDivisors, ∀ k', 2 ≤ k' → k' ≤ cfg.toneCmpMax →
      ((cfg.toneClk : Int) - (hz * d * k : Nat)).natAbs < ((cfg.toneClk : Int) - (hz * d' * k' : Nat)).natAbs ∨
      (((cfg.toneClk : Int) - (hz * d * k : Nat)).natAbs = ((cfg.toneClk : Int) - (hz * d' * k' : Nat)).natAbs ∧
        (d < d' ∨ (d = d' ∧ k ≤ k')))

/-- R293: TONE_BEST_DIVISOR issued by a task answers the pair of the search and writes no field of the block; a frequency of 0 is out of its range (R122). Its
answer stands in the model's own field (notes/assumptions/6.md). -/
def Obligations.ToneBestDivisorAnswersThePair : Prop :=
  ∀ (hz : U32) (s : State) (t : Nat), StepOf s (.task t) → t < s.task.length →
    (hz ≠ 0 → ∃ d k, bestDivisor s.cfg hz.toNat = (d, k) ∧ exec (.toneBestDivisor hz) s = .next { s with fnResult := .divisor d k }) ∧
    (hz = 0 → exec (.toneBestDivisor hz) s = .refused .argOutOfRange)

/-- R300: TONE_EDGE toggles the phase of a running timer. Where it is not enabled nothing changes, which is the model's choice (notes/assumptions/4.md). -/
def Obligations.ToneEdgeTogglesARunningTimer : Prop :=
  ∀ s : State, StepOf s .toneTimer →
    (s.tone.running = true → exec .toneEdge s = .next { s with tone := { s.tone with phase := !s.tone.phase } }) ∧
    (s.tone.running = false → exec .toneEdge s = .next s)

/-! ### Host operations and the tick -/

/-- R320, R321, R362: SEND_UI_EVENT checks the tag, then the payload's range, then the queue; a full queue gives `full` or a hold by the policy and never the overflow
flag. The name of the refusal, and refusing the form for unknown tags with a tag that is known, are the model's (notes/assumptions/12.md), as are
the hold as a next state (notes/assumptions/4.md) and the raising task's control state (notes/assumptions/9.md). -/
def Obligations.SendUiEventOutcomes : Prop :=
  ∀ (arg : UiArg) (s : State) (t : Nat) (c : TaskCtl), AtStep s t (.sendUiEvent arg) 0 c →
    (∀ tag : U8, arg = .unknownTag tag → 3 < tag.toNat →
      exec (.sendUiEvent arg) s = .next (haltedWith { s with task := s.task.set t c } .unknownEventTag)) ∧
    ((∃ enc time, arg = .encoderMove enc time none) ∨ (∃ page, arg = .pageChangeRequest page ∧ s.cfg.numPages ≤ page.toNat) ∨
        (∃ kind, arg = .generateSubModeRequest kind ∧ s.cfg.numSubmodeKinds ≤ kind.toNat) ∨
        (∃ tag : U8, arg = .unknownTag tag ∧ tag.toNat ≤ 3) →
      exec (.sendUiEvent arg) s = .refused .argOutOfRange) ∧
    (∀ ev : UiEvent, ((∃ enc time d, arg = .encoderMove enc time (some d) ∧ ev = .encoderMove { enc := enc, time := time, dir := d }) ∨
        (arg = .periodicTick ∧ ev = .periodicTick) ∨
        (∃ page, arg = .pageChangeRequest page ∧ page.toNat < s.cfg.numPages ∧ ev = .pageChangeRequest page) ∨
        (∃ kind, arg = .generateSubModeRequest kind ∧ kind.toNat < s.cfg.numSubmodeKinds ∧ ev = .generateSubModeRequest kind)) →
      (s.qPrimary.length < s.cfg.primaryDepth →
        exec (.sendUiEvent arg) s = .next (returned { s with qPrimary := s.qPrimary ++ [ev] } t c .sent)) ∧
      (s.cfg.primaryDepth ≤ s.qPrimary.length → s.cfg.uiSendPolicy = .nonBlocking →
        exec (.sendUiEvent arg) s = .next (returned s t c .full)) ∧
      (s.cfg.primaryDepth ≤ s.qPrimary.length → s.cfg.uiSendPolicy = .blocking →
        exec (.sendUiEvent arg) s = .next { s with task := s.task.set t c }))

/-- R322, R324: a receive takes the head of its queue, and holds while it is empty. That a hold is a next state with the task in its operation is the
model's choice (notes/assumptions/4.md). -/
def Obligations.ReceivesTakeTheHeadOrHold : Prop :=
  ∀ (s : State) (t : Nat) (c : TaskCtl),
    (AtStep s t .recvUiEvent 0 c → ∀ ev q, s.qPrimary = ev :: q →
      exec .recvUiEvent s = .next (returned { s with qPrimary := q } t c (.event ev))) ∧
    (AtStep s t .recvUiEvent 0 c → s.qPrimary = [] → exec .recvUiEvent s = .next { s with task := s.task.set t c }) ∧
    (AtStep s t .recvDiagEvent 0 c → ∀ m q, s.qDiag = m :: q →
      exec .recvDiagEvent s = .next (returned { s with qDiag := q } t c (.move m))) ∧
    (AtStep s t .recvDiagEvent 0 c → s.qDiag = [] → exec .recvDiagEvent s = .next { s with task := s.task.set t c })

/-- R326, R327: READ_OVERFLOW returns the flag, CLEAR_OVERFLOW clears it. -/
def Obligations.OverflowIsReadAndCleared : Prop :=
  ∀ (s : State) (t : Nat) (c : TaskCtl),
    (AtStep s t .readOverflow 0 c → exec .readOverflow s = .next (returned s t c (.flag s.overflow))) ∧
    (AtStep s t .clearOverflow 0 c → exec .clearOverflow s = .next (returned { s with overflow := false } t c .none))

/-- R330: TICK advances the tick counter modulo 2^32. -/
def Obligations.TickCountsModulo : Prop :=
  ∀ s : State, StepOf s .tickSrc →
    ∃ n : U32, exec .tick s = .next { s with tick := n } ∧ n.toNat = (s.tick.toNat + 1) % 2 ^ 32

/-! ### The fatal halt and what holds of every instruction -/

/-- R11, R350: once halted, no instruction has a step. -/
def Obligations.HaltedSystemHasNoStep : Prop :=
  ∀ (s : State) (f : FatalCode), s.halted = some f →
    step s = .fault (.halted f) ∧ ∀ i : Instr, exec i s = .fault (.halted f)

/-- R351: each fatal code, by its number, is raised by the operation of its row and by no other, and by that one only for its cause; the last event of the trace
is its diagnostic signal (R350). The numbers are the spec's own choice (D43). -/
def Obligations.EachFatalCodeHasItsCause : Prop :=
  ∀ (i : Instr) (s t : State) (f : FatalCode), exec i s = .next t → t.halted = some f →
    (∃ es, t.trace = es ++ [.diagSignal f]) ∧
    ((fatalNumber f = 1 ∧ ∃ src adc0 adc1, i = .audioTick src adc0 adc1 ∧ src ≠ .expected) ∨
     (fatalNumber f = 2 ∧ ∃ tag : U8, i = .sendUiEvent (.unknownTag tag) ∧ 3 < tag.toNat) ∨
     (fatalNumber f = 3 ∧ ∃ busOk, i = .reset false busOk) ∨
     (fatalNumber f = 4 ∧ ∃ tok t, i = .busRelease tok ∧ s.offer.agent = .task t ∧ (s.owner ≠ some t ∨ tok.toNat ≠ t)) ∨
     (fatalNumber f = 5 ∧ isTransceive i = true ∧
       ∃ t, s.offer.agent = .task t ∧ (s.owner ≠ some t ∨ ∃ tok word, i = .busTransceive tok word ∧ tok.toNat ≠ t)) ∨
     (fatalNumber f = 6 ∧ i = .reset true false))

/-- R350, R352: outside RESET, the step that raises a fatal halt records its code and its signal and writes nothing else (the outputs stay as they are). A step of
no task leaves every task as it was; a task whose operation raised it stays in that operation, at the micro-step that raised it and with the control
state it had there, which the model deduces (notes/assumptions/9.md). -/
def Obligations.FatalHaltWritesNothingElse : Prop :=
  ∀ (i : Instr) (s t : State) (f : FatalCode), exec i s = .next t → isReset i = false → t.halted = some f →
    ∃ tasks, t = { s with halted := some f, trace := s.trace ++ [.diagSignal f], task := tasks } ∧
      ((isTaskOp i = false ∧ tasks = s.task) ∨ ∃ n k c, isTaskOp i = true ∧ AtStep s n i k c ∧ c.op = some i ∧ tasks = s.task.set n c)

/-- R72: outside RESET the trace only grows at its end. -/
def Obligations.TraceOnlyGrows : Prop :=
  ∀ (i : Instr) (s t : State), exec i s = .next t → isReset i = false → ∃ es, t.trace = s.trace ++ es

/-- R7, R33: no step changes the configuration, the profiles and transition tables with it. -/
def Obligations.ConfigurationNeverChanges : Prop :=
  ∀ s t : State, step s = .next t → t.cfg = s.cfg

/-- 10_state.md: outside RESET each field of the block is written by the operations its rule names and by no other, and a task's control state by its own
operations (R71). The functions of the encoder interrupt, issued alone, write the fields they write within it (notes/assumptions/6.md). Who writes
`halted` is in EachFatalCodeHasItsCause. -/
def Obligations.OnlyItsWritersChangeAField : Prop :=
  ∀ (i : Instr) (s t : State), exec i s = .next t → isReset i = false →
    t.toneValue = s.toneValue ∧
    (t.enc ≠ s.enc → (∃ sigs, i = .encIsr sigs) ∨ ∃ e st2 sig dir now, i = .qdHistory e st2 sig dir now) ∧
    (t.qPrimary ≠ s.qPrimary →
      (∃ sigs, i = .encIsr sigs) ∨ (∃ ms, i = .ebBridge ms) ∨ (∃ arg, i = .sendUiEvent arg) ∨ i = .recvUiEvent) ∧
    (t.qDiag ≠ s.qDiag → (∃ sigs, i = .encIsr sigs) ∨ (∃ ms, i = .ebBridge ms) ∨ i = .recvDiagEvent) ∧
    (t.overflow ≠ s.overflow → (∃ sigs, i = .encIsr sigs) ∨ (∃ ms, i = .ebBridge ms) ∨ i = .clearOverflow) ∧
    (t.owner ≠ s.owner → (∃ ms, i = .busAcquire ms) ∨ ∃ tok, i = .busRelease tok) ∧
    (t.task ≠ s.task → isTaskOp i = true ∧ ∃ n c, s.offer.agent = .task n ∧ t.task = s.task.set n c) ∧
    (t.trace ≠ s.trace → (∃ sigs, i = .encIsr sigs) ∨ (∃ src adc0 adc1, i = .audioTick src adc0 adc1) ∨ setsTone i = true ∨
      isTransceive i = true ∨ (∃ arg, i = .sendUiEvent arg) ∨ ∃ tok, i = .busRelease tok) ∧
    (t.volume ≠ s.volume → ∃ vol, i = .setVolume vol) ∧
    (t.mode ≠ s.mode → i = .setMode t.mode) ∧
    (t.pwmEnabled ≠ s.pwmEnabled → ∃ m, i = .setMode m) ∧
    (t.dacOut ≠ s.dacOut ∨ t.pwmDuty ≠ s.pwmDuty → ∃ adc0 adc1, i = .audioTick .expected adc0 adc1) ∧
    (t.tone.freq ≠ s.tone.freq ∨ t.tone.running ≠ s.tone.running → setsTone i = true) ∧
    (t.tone.div ≠ s.tone.div ∨ t.tone.cmp ≠ s.tone.cmp → ∃ hz, i = .setFrequency hz) ∧
    (t.tone.phase ≠ s.tone.phase → setsTone i = true ∨ i = .toneEdge) ∧
    (t.tick ≠ s.tick → i = .tick) ∧
    (t.rxReg ≠ s.rxReg → ∃ resp, i = .busComplete resp) ∧
    (t.txReg ≠ s.txReg → isTransceive i = true) ∧
    (t.xfer ≠ s.xfer → isTransceive i = true ∨ ∃ resp, i = .busComplete resp)

/-- R30: the model's own field for the answer of a function is read by nothing: whatever it holds, an instruction goes the same way and leaves the same state but
for that field (notes/assumptions/6.md). -/
def Obligations.FunctionAnswerIsUnobservable : Prop :=
  ∀ (i : Instr) (s t : State) (r : Result), exec i s = .next t →
    ∃ r', exec i { s with fnResult := r } = .next { t with fnResult := r' }

/-- R403: SET_MODE Off and SET_MODE AdcPassthrough of two tasks, interleaved A0 B0 A1 B1 A2 B2 B3 A3 from ToneFrequency with no tone, leave AdcPassthrough with
the carrier disabled. The schedule is the model's own (notes/assumptions/3.md). -/
def Obligations.OverlappingSetModeLeavesTheCarrierOff : Prop :=
  ∀ (s : State) (a b : Nat) (ca cb : TaskCtl) (rest : List Line), Running s → a ≠ b →
    s.task[a]? = some ca → ca.op = none → s.task[b]? = some cb → cb.op = none → s.mode = .toneFrequency → s.tone.freq = 0 →
    s.schedule = [taskLine s.cfg.channels a (.setMode .off), taskLine s.cfg.channels b (.setMode .adcPassthrough),
      taskResume a, taskResume b, taskResume a, taskResume b, taskResume b, taskResume a] ++ rest →
    ∃ u, steps 8 s = .next u ∧ u.mode = .adcPassthrough ∧ u.pwmEnabled = false

/-- R302, R405: SET_FREQUENCY hz and SET_FREQUENCY 0 of two tasks, interleaved A0 B0 B1 A1 A2 B2, leave the timer running with frequency 0 recorded. The
schedule is the model's own (notes/assumptions/3.md). -/
def Obligations.OverlappingSetFrequencyLeavesTheTimerRunning : Prop :=
  ∀ (s : State) (a b : Nat) (ca cb : TaskCtl) (hz : U32) (rest : List Line), Running s → a ≠ b →
    s.task[a]? = some ca → ca.op = none → s.task[b]? = some cb → cb.op = none →
    hz ≠ 0 → s.tone.freq ≠ hz → s.tone.freq ≠ 0 →
    s.schedule = [taskLine s.cfg.channels a (.setFrequency hz), taskLine s.cfg.channels b (.setFrequency 0),
      taskResume b, taskResume a, taskResume a, taskResume b] ++ rest →
    ∃ u, steps 6 s = .next u ∧ u.tone.running = true ∧ u.tone.freq = 0

/-- R124: the words of the pseudo-operations are the named forms they are built from; a timed-out acquire ends one with its error; a timed-out transfer leads to the
release and then ends it with its error; the last response is its result. That this is so of POT_SET and DISP_READ too is the model's
choice (notes/assumptions/23.md). -/
def Obligations.PseudoOperationsKeepTheirProtocol : Prop :=
  (∀ (c : Channels) (addr : BitVec 4) (value : BitVec 9) (index : U8), c.distinct = true →
    (pseudoWords c (.potSet addr value)).map (decodeBusWord c) = [.ok (.buswPotWrite true addr value)] ∧
    (pseudoWords c (.potGet addr)).map (decodeBusWord c) = [.ok (.buswPotRead true addr)] ∧
    (pseudoWords c (.dispRead index)).map (decodeBusWord c) = [.ok (.buswDispCmd true index), .ok (.buswDispRead true)]) ∧
  (∀ (c : Channels) (p : Pseudo) (tok : U32), pseudoOp tok (pseudoStart c p) = some (.busAcquire 1000) ∧
    pseudoNext .timeoutError (pseudoStart c p) = .over .timeoutError ∧
    ∃ w ws, pseudoWords c p = w :: ws ∧ ∀ n, pseudoNext (.okTok n) (pseudoStart c p) = .send w ws) ∧
  (∀ (tok w r : U32) (ws : List U32), pseudoOp tok (.send w ws) = some (.busTransceive tok w) ∧
    pseudoNext (.xferTimeout r) (.send w ws) = .release (.xferTimeout r) ∧
    pseudoNext (.okResp r) (.send w []) = .release (.okResp r) ∧
    ∀ w' ws', pseudoNext (.okResp r) (.send w (w' :: ws')) = .send w' ws') ∧
  (∀ (tok : U32) (out r : Result), pseudoOp tok (.release out) = some (.busRelease tok) ∧
    pseudoNext r (.release out) = .over out ∧ pseudoOp tok (.over out) = none)
end

