-- ==== Sys2Proof/Laws/State.lean ====
section
/-! SUPPORT. What each named update of the state leaves in each field: one lemma per field per update. -/

namespace Sys2Proof.Machine

variable (s : State)

@[simp] theorem setTask_enc (t : Nat) (c : TaskCtl) : (s.setTask t c).enc = s.enc := rfl
@[simp] theorem setTask_qPrimary (t : Nat) (c : TaskCtl) : (s.setTask t c).qPrimary = s.qPrimary := rfl
@[simp] theorem setTask_qDiag (t : Nat) (c : TaskCtl) : (s.setTask t c).qDiag = s.qDiag := rfl
@[simp] theorem setTask_overflow (t : Nat) (c : TaskCtl) : (s.setTask t c).overflow = s.overflow := rfl
@[simp] theorem setTask_owner (t : Nat) (c : TaskCtl) : (s.setTask t c).owner = s.owner := rfl
@[simp] theorem setTask_xfer (t : Nat) (c : TaskCtl) : (s.setTask t c).xfer = s.xfer := rfl
@[simp] theorem setTask_txReg (t : Nat) (c : TaskCtl) : (s.setTask t c).txReg = s.txReg := rfl
@[simp] theorem setTask_rxReg (t : Nat) (c : TaskCtl) : (s.setTask t c).rxReg = s.rxReg := rfl
@[simp] theorem setTask_mode (t : Nat) (c : TaskCtl) : (s.setTask t c).mode = s.mode := rfl
@[simp] theorem setTask_volume (t : Nat) (c : TaskCtl) : (s.setTask t c).volume = s.volume := rfl
@[simp] theorem setTask_toneValue (t : Nat) (c : TaskCtl) : (s.setTask t c).toneValue = s.toneValue := rfl
@[simp] theorem setTask_pwmEnabled (t : Nat) (c : TaskCtl) : (s.setTask t c).pwmEnabled = s.pwmEnabled := rfl
@[simp] theorem setTask_dacOut (t : Nat) (c : TaskCtl) : (s.setTask t c).dacOut = s.dacOut := rfl
@[simp] theorem setTask_pwmDuty (t : Nat) (c : TaskCtl) : (s.setTask t c).pwmDuty = s.pwmDuty := rfl
@[simp] theorem setTask_tone (t : Nat) (c : TaskCtl) : (s.setTask t c).tone = s.tone := rfl
@[simp] theorem setTask_tick (t : Nat) (c : TaskCtl) : (s.setTask t c).tick = s.tick := rfl
@[simp] theorem setTask_task (t : Nat) (c : TaskCtl) : (s.setTask t c).task = s.task.set t c := rfl
@[simp] theorem setTask_halted (t : Nat) (c : TaskCtl) : (s.setTask t c).halted = s.halted := rfl
@[simp] theorem setTask_trace (t : Nat) (c : TaskCtl) : (s.setTask t c).trace = s.trace := rfl
@[simp] theorem setTask_cfg (t : Nat) (c : TaskCtl) : (s.setTask t c).cfg = s.cfg := rfl
@[simp] theorem setTask_booted (t : Nat) (c : TaskCtl) : (s.setTask t c).booted = s.booted := rfl
@[simp] theorem setTask_schedule (t : Nat) (c : TaskCtl) : (s.setTask t c).schedule = s.schedule := rfl
@[simp] theorem setTask_offer (t : Nat) (c : TaskCtl) : (s.setTask t c).offer = s.offer := rfl
@[simp] theorem setTask_drawCount (t : Nat) (c : TaskCtl) : (s.setTask t c).drawCount = s.drawCount := rfl
@[simp] theorem setTask_fnResult (t : Nat) (c : TaskCtl) : (s.setTask t c).fnResult = s.fnResult := rfl

@[simp] theorem log_enc (e : Event) : (s.log e).enc = s.enc := rfl
@[simp] theorem log_qPrimary (e : Event) : (s.log e).qPrimary = s.qPrimary := rfl
@[simp] theorem log_qDiag (e : Event) : (s.log e).qDiag = s.qDiag := rfl
@[simp] theorem log_overflow (e : Event) : (s.log e).overflow = s.overflow := rfl
@[simp] theorem log_owner (e : Event) : (s.log e).owner = s.owner := rfl
@[simp] theorem log_xfer (e : Event) : (s.log e).xfer = s.xfer := rfl
@[simp] theorem log_txReg (e : Event) : (s.log e).txReg = s.txReg := rfl
@[simp] theorem log_rxReg (e : Event) : (s.log e).rxReg = s.rxReg := rfl
@[simp] theorem log_mode (e : Event) : (s.log e).mode = s.mode := rfl
@[simp] theorem log_volume (e : Event) : (s.log e).volume = s.volume := rfl
@[simp] theorem log_toneValue (e : Event) : (s.log e).toneValue = s.toneValue := rfl
@[simp] theorem log_pwmEnabled (e : Event) : (s.log e).pwmEnabled = s.pwmEnabled := rfl
@[simp] theorem log_dacOut (e : Event) : (s.log e).dacOut = s.dacOut := rfl
@[simp] theorem log_pwmDuty (e : Event) : (s.log e).pwmDuty = s.pwmDuty := rfl
@[simp] theorem log_tone (e : Event) : (s.log e).tone = s.tone := rfl
@[simp] theorem log_tick (e : Event) : (s.log e).tick = s.tick := rfl
@[simp] theorem log_task (e : Event) : (s.log e).task = s.task := rfl
@[simp] theorem log_halted (e : Event) : (s.log e).halted = s.halted := rfl
@[simp] theorem log_trace (e : Event) : (s.log e).trace = s.trace ++ [e] := rfl
@[simp] theorem log_cfg (e : Event) : (s.log e).cfg = s.cfg := rfl
@[simp] theorem log_booted (e : Event) : (s.log e).booted = s.booted := rfl
@[simp] theorem log_schedule (e : Event) : (s.log e).schedule = s.schedule := rfl
@[simp] theorem log_offer (e : Event) : (s.log e).offer = s.offer := rfl
@[simp] theorem log_drawCount (e : Event) : (s.log e).drawCount = s.drawCount := rfl
@[simp] theorem log_fnResult (e : Event) : (s.log e).fnResult = s.fnResult := rfl

@[simp] theorem raiseFatal_enc (f : FatalCode) : (raiseFatal f s).enc = s.enc := rfl
@[simp] theorem raiseFatal_qPrimary (f : FatalCode) : (raiseFatal f s).qPrimary = s.qPrimary := rfl
@[simp] theorem raiseFatal_qDiag (f : FatalCode) : (raiseFatal f s).qDiag = s.qDiag := rfl
@[simp] theorem raiseFatal_overflow (f : FatalCode) : (raiseFatal f s).overflow = s.overflow := rfl
@[simp] theorem raiseFatal_owner (f : FatalCode) : (raiseFatal f s).owner = s.owner := rfl
@[simp] theorem raiseFatal_xfer (f : FatalCode) : (raiseFatal f s).xfer = s.xfer := rfl
@[simp] theorem raiseFatal_txReg (f : FatalCode) : (raiseFatal f s).txReg = s.txReg := rfl
@[simp] theorem raiseFatal_rxReg (f : FatalCode) : (raiseFatal f s).rxReg = s.rxReg := rfl
@[simp] theorem raiseFatal_mode (f : FatalCode) : (raiseFatal f s).mode = s.mode := rfl
@[simp] theorem raiseFatal_volume (f : FatalCode) : (raiseFatal f s).volume = s.volume := rfl
@[simp] theorem raiseFatal_toneValue (f : FatalCode) : (raiseFatal f s).toneValue = s.toneValue := rfl
@[simp] theorem raiseFatal_pwmEnabled (f : FatalCode) : (raiseFatal f s).pwmEnabled = s.pwmEnabled := rfl
@[simp] theorem raiseFatal_dacOut (f : FatalCode) : (raiseFatal f s).dacOut = s.dacOut := rfl
@[simp] theorem raiseFatal_pwmDuty (f : FatalCode) : (raiseFatal f s).pwmDuty = s.pwmDuty := rfl
@[simp] theorem raiseFatal_tone (f : FatalCode) : (raiseFatal f s).tone = s.tone := rfl
@[simp] theorem raiseFatal_tick (f : FatalCode) : (raiseFatal f s).tick = s.tick := rfl
@[simp] theorem raiseFatal_task (f : FatalCode) : (raiseFatal f s).task = s.task := rfl
@[simp] theorem raiseFatal_halted (f : FatalCode) : (raiseFatal f s).halted = some f := rfl
@[simp] theorem raiseFatal_trace (f : FatalCode) : (raiseFatal f s).trace = s.trace ++ [.diagSignal f] := rfl
@[simp] theorem raiseFatal_cfg (f : FatalCode) : (raiseFatal f s).cfg = s.cfg := rfl
@[simp] theorem raiseFatal_booted (f : FatalCode) : (raiseFatal f s).booted = s.booted := rfl
@[simp] theorem raiseFatal_schedule (f : FatalCode) : (raiseFatal f s).schedule = s.schedule := rfl
@[simp] theorem raiseFatal_offer (f : FatalCode) : (raiseFatal f s).offer = s.offer := rfl
@[simp] theorem raiseFatal_drawCount (f : FatalCode) : (raiseFatal f s).drawCount = s.drawCount := rfl
@[simp] theorem raiseFatal_fnResult (f : FatalCode) : (raiseFatal f s).fnResult = s.fnResult := rfl

@[simp] theorem drew_enc (k : Nat) : (s.drew k).enc = s.enc := rfl
@[simp] theorem drew_qPrimary (k : Nat) : (s.drew k).qPrimary = s.qPrimary := rfl
@[simp] theorem drew_qDiag (k : Nat) : (s.drew k).qDiag = s.qDiag := rfl
@[simp] theorem drew_overflow (k : Nat) : (s.drew k).overflow = s.overflow := rfl
@[simp] theorem drew_owner (k : Nat) : (s.drew k).owner = s.owner := rfl
@[simp] theorem drew_xfer (k : Nat) : (s.drew k).xfer = s.xfer := rfl
@[simp] theorem drew_txReg (k : Nat) : (s.drew k).txReg = s.txReg := rfl
@[simp] theorem drew_rxReg (k : Nat) : (s.drew k).rxReg = s.rxReg := rfl
@[simp] theorem drew_mode (k : Nat) : (s.drew k).mode = s.mode := rfl
@[simp] theorem drew_volume (k : Nat) : (s.drew k).volume = s.volume := rfl
@[simp] theorem drew_toneValue (k : Nat) : (s.drew k).toneValue = s.toneValue := rfl
@[simp] theorem drew_pwmEnabled (k : Nat) : (s.drew k).pwmEnabled = s.pwmEnabled := rfl
@[simp] theorem drew_dacOut (k : Nat) : (s.drew k).dacOut = s.dacOut := rfl
@[simp] theorem drew_pwmDuty (k : Nat) : (s.drew k).pwmDuty = s.pwmDuty := rfl
@[simp] theorem drew_tone (k : Nat) : (s.drew k).tone = s.tone := rfl
@[simp] theorem drew_tick (k : Nat) : (s.drew k).tick = s.tick := rfl
@[simp] theorem drew_task (k : Nat) : (s.drew k).task = s.task := rfl
@[simp] theorem drew_halted (k : Nat) : (s.drew k).halted = s.halted := rfl
@[simp] theorem drew_trace (k : Nat) : (s.drew k).trace = s.trace := rfl
@[simp] theorem drew_cfg (k : Nat) : (s.drew k).cfg = s.cfg := rfl
@[simp] theorem drew_booted (k : Nat) : (s.drew k).booted = s.booted := rfl
@[simp] theorem drew_schedule (k : Nat) : (s.drew k).schedule = s.schedule := rfl
@[simp] theorem drew_offer (k : Nat) : (s.drew k).offer = s.offer := rfl
@[simp] theorem drew_drawCount (k : Nat) : (s.drew k).drawCount = s.drawCount + k := rfl
@[simp] theorem drew_fnResult (k : Nat) : (s.drew k).fnResult = s.fnResult := rfl

@[simp] theorem setOverflow_enc : (s.setOverflow).enc = s.enc := rfl
@[simp] theorem setOverflow_qPrimary : (s.setOverflow).qPrimary = s.qPrimary := rfl
@[simp] theorem setOverflow_qDiag : (s.setOverflow).qDiag = s.qDiag := rfl
@[simp] theorem setOverflow_overflow : (s.setOverflow).overflow = true := rfl
@[simp] theorem setOverflow_owner : (s.setOverflow).owner = s.owner := rfl
@[simp] theorem setOverflow_xfer : (s.setOverflow).xfer = s.xfer := rfl
@[simp] theorem setOverflow_txReg : (s.setOverflow).txReg = s.txReg := rfl
@[simp] theorem setOverflow_rxReg : (s.setOverflow).rxReg = s.rxReg := rfl
@[simp] theorem setOverflow_mode : (s.setOverflow).mode = s.mode := rfl
@[simp] theorem setOverflow_volume : (s.setOverflow).volume = s.volume := rfl
@[simp] theorem setOverflow_toneValue : (s.setOverflow).toneValue = s.toneValue := rfl
@[simp] theorem setOverflow_pwmEnabled : (s.setOverflow).pwmEnabled = s.pwmEnabled := rfl
@[simp] theorem setOverflow_dacOut : (s.setOverflow).dacOut = s.dacOut := rfl
@[simp] theorem setOverflow_pwmDuty : (s.setOverflow).pwmDuty = s.pwmDuty := rfl
@[simp] theorem setOverflow_tone : (s.setOverflow).tone = s.tone := rfl
@[simp] theorem setOverflow_tick : (s.setOverflow).tick = s.tick := rfl
@[simp] theorem setOverflow_task : (s.setOverflow).task = s.task := rfl
@[simp] theorem setOverflow_halted : (s.setOverflow).halted = s.halted := rfl
@[simp] theorem setOverflow_trace : (s.setOverflow).trace = s.trace := rfl
@[simp] theorem setOverflow_cfg : (s.setOverflow).cfg = s.cfg := rfl
@[simp] theorem setOverflow_booted : (s.setOverflow).booted = s.booted := rfl
@[simp] theorem setOverflow_schedule : (s.setOverflow).schedule = s.schedule := rfl
@[simp] theorem setOverflow_offer : (s.setOverflow).offer = s.offer := rfl
@[simp] theorem setOverflow_drawCount : (s.setOverflow).drawCount = s.drawCount := rfl
@[simp] theorem setOverflow_fnResult : (s.setOverflow).fnResult = s.fnResult := rfl

@[simp] theorem clearOverflow_enc : (s.clearOverflow).enc = s.enc := rfl
@[simp] theorem clearOverflow_qPrimary : (s.clearOverflow).qPrimary = s.qPrimary := rfl
@[simp] theorem clearOverflow_qDiag : (s.clearOverflow).qDiag = s.qDiag := rfl
@[simp] theorem clearOverflow_overflow : (s.clearOverflow).overflow = false := rfl
@[simp] theorem clearOverflow_owner : (s.clearOverflow).owner = s.owner := rfl
@[simp] theorem clearOverflow_xfer : (s.clearOverflow).xfer = s.xfer := rfl
@[simp] theorem clearOverflow_txReg : (s.clearOverflow).txReg = s.txReg := rfl
@[simp] theorem clearOverflow_rxReg : (s.clearOverflow).rxReg = s.rxReg := rfl
@[simp] theorem clearOverflow_mode : (s.clearOverflow).mode = s.mode := rfl
@[simp] theorem clearOverflow_volume : (s.clearOverflow).volume = s.volume := rfl
@[simp] theorem clearOverflow_toneValue : (s.clearOverflow).toneValue = s.toneValue := rfl
@[simp] theorem clearOverflow_pwmEnabled : (s.clearOverflow).pwmEnabled = s.pwmEnabled := rfl
@[simp] theorem clearOverflow_dacOut : (s.clearOverflow).dacOut = s.dacOut := rfl
@[simp] theorem clearOverflow_pwmDuty : (s.clearOverflow).pwmDuty = s.pwmDuty := rfl
@[simp] theorem clearOverflow_tone : (s.clearOverflow).tone = s.tone := rfl
@[simp] theorem clearOverflow_tick : (s.clearOverflow).tick = s.tick := rfl
@[simp] theorem clearOverflow_task : (s.clearOverflow).task = s.task := rfl
@[simp] theorem clearOverflow_halted : (s.clearOverflow).halted = s.halted := rfl
@[simp] theorem clearOverflow_trace : (s.clearOverflow).trace = s.trace := rfl
@[simp] theorem clearOverflow_cfg : (s.clearOverflow).cfg = s.cfg := rfl
@[simp] theorem clearOverflow_booted : (s.clearOverflow).booted = s.booted := rfl
@[simp] theorem clearOverflow_schedule : (s.clearOverflow).schedule = s.schedule := rfl
@[simp] theorem clearOverflow_offer : (s.clearOverflow).offer = s.offer := rfl
@[simp] theorem clearOverflow_drawCount : (s.clearOverflow).drawCount = s.drawCount := rfl
@[simp] theorem clearOverflow_fnResult : (s.clearOverflow).fnResult = s.fnResult := rfl

@[simp] theorem take_enc (l : Line) (rest : List Line) : (s.take l rest).enc = s.enc := rfl
@[simp] theorem take_qPrimary (l : Line) (rest : List Line) : (s.take l rest).qPrimary = s.qPrimary := rfl
@[simp] theorem take_qDiag (l : Line) (rest : List Line) : (s.take l rest).qDiag = s.qDiag := rfl
@[simp] theorem take_overflow (l : Line) (rest : List Line) : (s.take l rest).overflow = s.overflow := rfl
@[simp] theorem take_owner (l : Line) (rest : List Line) : (s.take l rest).owner = s.owner := rfl
@[simp] theorem take_xfer (l : Line) (rest : List Line) : (s.take l rest).xfer = s.xfer := rfl
@[simp] theorem take_txReg (l : Line) (rest : List Line) : (s.take l rest).txReg = s.txReg := rfl
@[simp] theorem take_rxReg (l : Line) (rest : List Line) : (s.take l rest).rxReg = s.rxReg := rfl
@[simp] theorem take_mode (l : Line) (rest : List Line) : (s.take l rest).mode = s.mode := rfl
@[simp] theorem take_volume (l : Line) (rest : List Line) : (s.take l rest).volume = s.volume := rfl
@[simp] theorem take_toneValue (l : Line) (rest : List Line) : (s.take l rest).toneValue = s.toneValue := rfl
@[simp] theorem take_pwmEnabled (l : Line) (rest : List Line) : (s.take l rest).pwmEnabled = s.pwmEnabled := rfl
@[simp] theorem take_dacOut (l : Line) (rest : List Line) : (s.take l rest).dacOut = s.dacOut := rfl
@[simp] theorem take_pwmDuty (l : Line) (rest : List Line) : (s.take l rest).pwmDuty = s.pwmDuty := rfl
@[simp] theorem take_tone (l : Line) (rest : List Line) : (s.take l rest).tone = s.tone := rfl
@[simp] theorem take_tick (l : Line) (rest : List Line) : (s.take l rest).tick = s.tick := rfl
@[simp] theorem take_task (l : Line) (rest : List Line) : (s.take l rest).task = s.task := rfl
@[simp] theorem take_halted (l : Line) (rest : List Line) : (s.take l rest).halted = s.halted := rfl
@[simp] theorem take_trace (l : Line) (rest : List Line) : (s.take l rest).trace = s.trace := rfl
@[simp] theorem take_cfg (l : Line) (rest : List Line) : (s.take l rest).cfg = s.cfg := rfl
@[simp] theorem take_booted (l : Line) (rest : List Line) : (s.take l rest).booted = s.booted := rfl
@[simp] theorem take_schedule (l : Line) (rest : List Line) : (s.take l rest).schedule = rest := rfl
@[simp] theorem take_offer (l : Line) (rest : List Line) : (s.take l rest).offer = l.offer := rfl
@[simp] theorem take_drawCount (l : Line) (rest : List Line) : (s.take l rest).drawCount = s.drawCount := rfl
@[simp] theorem take_fnResult (l : Line) (rest : List Line) : (s.take l rest).fnResult = s.fnResult := rfl

@[simp] theorem grantBus_enc (t : Nat) : (grantBus t s).enc = s.enc := rfl
@[simp] theorem grantBus_qPrimary (t : Nat) : (grantBus t s).qPrimary = s.qPrimary := rfl
@[simp] theorem grantBus_qDiag (t : Nat) : (grantBus t s).qDiag = s.qDiag := rfl
@[simp] theorem grantBus_overflow (t : Nat) : (grantBus t s).overflow = s.overflow := rfl
@[simp] theorem grantBus_owner (t : Nat) : (grantBus t s).owner = some t := rfl
@[simp] theorem grantBus_xfer (t : Nat) : (grantBus t s).xfer = s.xfer := rfl
@[simp] theorem grantBus_txReg (t : Nat) : (grantBus t s).txReg = s.txReg := rfl
@[simp] theorem grantBus_rxReg (t : Nat) : (grantBus t s).rxReg = s.rxReg := rfl
@[simp] theorem grantBus_mode (t : Nat) : (grantBus t s).mode = s.mode := rfl
@[simp] theorem grantBus_volume (t : Nat) : (grantBus t s).volume = s.volume := rfl
@[simp] theorem grantBus_toneValue (t : Nat) : (grantBus t s).toneValue = s.toneValue := rfl
@[simp] theorem grantBus_pwmEnabled (t : Nat) : (grantBus t s).pwmEnabled = s.pwmEnabled := rfl
@[simp] theorem grantBus_dacOut (t : Nat) : (grantBus t s).dacOut = s.dacOut := rfl
@[simp] theorem grantBus_pwmDuty (t : Nat) : (grantBus t s).pwmDuty = s.pwmDuty := rfl
@[simp] theorem grantBus_tone (t : Nat) : (grantBus t s).tone = s.tone := rfl
@[simp] theorem grantBus_tick (t : Nat) : (grantBus t s).tick = s.tick := rfl
@[simp] theorem grantBus_task (t : Nat) : (grantBus t s).task = s.task := rfl
@[simp] theorem grantBus_halted (t : Nat) : (grantBus t s).halted = s.halted := rfl
@[simp] theorem grantBus_trace (t : Nat) : (grantBus t s).trace = s.trace := rfl
@[simp] theorem grantBus_cfg (t : Nat) : (grantBus t s).cfg = s.cfg := rfl
@[simp] theorem grantBus_booted (t : Nat) : (grantBus t s).booted = s.booted := rfl
@[simp] theorem grantBus_schedule (t : Nat) : (grantBus t s).schedule = s.schedule := rfl
@[simp] theorem grantBus_offer (t : Nat) : (grantBus t s).offer = s.offer := rfl
@[simp] theorem grantBus_drawCount (t : Nat) : (grantBus t s).drawCount = s.drawCount := rfl
@[simp] theorem grantBus_fnResult (t : Nat) : (grantBus t s).fnResult = s.fnResult := rfl

end Sys2Proof.Machine
end

