-- ==== Sys2Proof/Laws/Ops.lean ====
section
/-! SUPPORT. One lemma for each shared operation: what it answers when its premises hold, and all it can have done when it
answers a next state. -/

namespace Sys2Proof.Machine

/-! ### The premises of a step -/

theorem live_of_running {s : State} (h : Running s) (k : Out) : live s k = k := by
  simp [live, h.1, h.2]

theorem live_of_halted {s : State} {c : FatalCode} (h : s.halted = some c) (k : Out) : live s k = .fault (.halted c) := by
  simp [live, h]

/-- What a guarded step did: nothing, before RESET; else what its body did, on a running machine. -/
theorem live_next {s s' : State} {k : Out} (h : live s k = .next s') :
    (s.halted = none ∧ s.booted = false ∧ s' = s) ∨ (Running s ∧ k = .next s') := by
  unfold live at h
  split at h
  · cases h
  · rename_i hh
    split at h
    · exact .inr ⟨⟨hh, ‹_›⟩, h⟩
    · cases h
      exact .inl ⟨hh, by simpa using ‹¬s.booted = true›, rfl⟩

theorem asAgent_of_stepOf {s : State} {a : Agent} (h : StepOf s a) (k : Out) : asAgent a s k = k := by
  simp [asAgent, live_of_running h.1, h.2]

/-- What an agent's step did: nothing, before RESET; else what its body did, the present line being that agent's. -/
theorem asAgent_next {s s' : State} {a : Agent} {k : Out} (h : asAgent a s k = .next s') :
    (s.halted = none ∧ s.booted = false ∧ s' = s) ∨ (StepOf s a ∧ k = .next s') := by
  rcases live_next h with h | ⟨hr, h⟩
  · exact .inl h
  · split at h
    · exact .inr ⟨⟨hr, ‹_›⟩, h⟩
    · cases h

/-! ### A task's control flow -/

/-- A micro-step the task may take is its body's. -/
theorem asTask_of_atStep {s : State} {t : Nat} {i : Instr} {n : Nat} {c : TaskCtl} (h : AtStep s t i n c)
    (k : Nat → TaskCtl → State → Out) : asTask i s k = k t c s := by
  obtain ⟨⟨hr, ha⟩, c₀, hc, ⟨ho, -, rfl⟩ | ⟨ho, -, rfl⟩⟩ := h
  · simp [asTask, live_of_running hr, ha, hc, ho, TaskCtl.start]
  · simp [asTask, live_of_running hr, ha, hc, ho]

theorem AtStep.step_eq {s : State} {t : Nat} {i : Instr} {n : Nat} {c : TaskCtl} (h : AtStep s t i n c) : c.step = n := by
  obtain ⟨-, c₀, -, ⟨-, rfl, rfl⟩ | ⟨-, h, rfl⟩⟩ := h
  · rfl
  · exact h

theorem AtStep.op_eq {s : State} {t : Nat} {i : Instr} {n : Nat} {c : TaskCtl} (h : AtStep s t i n c) : c.op = some i := by
  obtain ⟨-, c₀, -, ⟨-, -, rfl⟩ | ⟨h, -, rfl⟩⟩ := h
  · rfl
  · exact h

theorem AtStep.lt {s : State} {t : Nat} {i : Instr} {n : Nat} {c : TaskCtl} (h : AtStep s t i n c) : t < s.task.length := by
  obtain ⟨-, c₀, hc, -⟩ := h
  exact (List.getElem?_eq_some_iff.mp hc).1

/-- What a task operation did: nothing, before RESET; else what its body did at the micro-step the task was at. -/
theorem asTask_next {s s' : State} {i : Instr} {k : Nat → TaskCtl → State → Out} (h : asTask i s k = .next s') :
    (s.halted = none ∧ s.booted = false ∧ s' = s) ∨ ∃ t n c, AtStep s t i n c ∧ k t c s = .next s' := by
  rcases live_next h with h0 | ⟨hr, h1⟩
  · exact .inl h0
  right
  split at h1
  · rename_i t ha
    split at h1
    · cases h1
    · rename_i c₀ hc
      split at h1
      · exact ⟨t, 0, _, ⟨⟨hr, ha⟩, c₀, hc, .inl ⟨‹_›, rfl, rfl⟩⟩, h1⟩
      · rename_i j hj
        split at h1
        · subst_vars
          exact ⟨t, c₀.step, c₀, ⟨⟨hr, ha⟩, c₀, hc, .inr ⟨hj, rfl, rfl⟩⟩, h1⟩
        · cases h1
  · cases h1

theorem finish_eq (t : Nat) (c : TaskCtl) (r : Result) (s : State) : finish t c r s = .next (returned s t c r) := rfl

theorem goStep_eq (t : Nat) (c : TaskCtl) (n : Nat) (s : State) : goStep t c n s = .next (movedTo s t c n) := rfl

theorem holdTask_eq (t : Nat) (c : TaskCtl) (s : State) : holdTask t c s = .next { s with task := s.task.set t c } := rfl

theorem fatalTask_eq (t : Nat) (c : TaskCtl) (f : FatalCode) (s : State) :
    fatalTask t c f s = .next (haltedWith { s with task := s.task.set t c } f) := rfl

theorem raiseFatal_eq (f : FatalCode) (s : State) : raiseFatal f s = haltedWith s f := rfl

/-! ### The queues -/

theorem qSend_of_lt {α : Type} {cap : Nat} {q : List α} (h : q.length < cap) (v : α) : qSend cap q v = some (q ++ [v]) := by
  simp [qSend, h]

theorem qSend_of_full {α : Type} {cap : Nat} {q : List α} (h : cap ≤ q.length) (v : α) : qSend cap q v = none := by
  simp [qSend, Nat.not_lt.mpr h]

/-- An accepted send appended its value to a queue that had room. -/
theorem qSend_some {α : Type} {cap : Nat} {q q' : List α} {v : α} (h : qSend cap q v = some q') :
    q.length < cap ∧ q' = q ++ [v] := by
  unfold qSend at h
  split at h
  · exact ⟨‹_›, by simpa using h.symm⟩
  · cases h

/-! ### The transfer of a bus word -/

/-- All that BUS_TRANSCEIVE, in any of its spellings, can have done. -/
theorem transceive_next {i : Instr} {mine : Nat → Bool} {word : U32} {s s' : State}
    (h : transceive i mine word s = .next s') :
    (s.halted = none ∧ s.booted = false ∧ s' = s) ∨ ∃ t n c, AtStep s t i n c ∧
      ((n = 0 ∧ s.owner = some t ∧ mine t = true ∧ reservedClear word = true ∧ s' = movedTo (startTransfer word s) t c 1) ∨
       (n = 0 ∧ ¬(s.owner = some t ∧ mine t = true) ∧ s' = haltedWith { s with task := s.task.set t c } .transceiveWithoutOwnership) ∨
       (n ≠ 0 ∧ s.offer.late = true ∧
          s' = returned { s with xfer := if s.xfer = .done then .idle else .stale } t c (.xferTimeout s.rxReg)) ∨
       (n ≠ 0 ∧ s.offer.late = false ∧ s.xfer = .done ∧ s' = returned { s with xfer := .idle } t c (.okResp s.rxReg)) ∨
       (n ≠ 0 ∧ s.offer.late = false ∧ s.xfer ≠ .done ∧ s' = { s with task := s.task.set t c })) := by
  rcases asTask_next h with h | ⟨t, n, c, hat, h⟩
  · exact .inl h
  refine .inr ⟨t, n, c, hat, ?_⟩
  have hn := hat.step_eq
  split at h
  · rename_i h0
    have hn0 : n = 0 := hn.symm.trans h0
    split at h
    · rename_i ho
      split at h
      · cases h; exact .inl ⟨hn0, ho.1, ho.2, ‹_›, rfl⟩
      · cases h
    · cases h; exact .inr (.inl ⟨hn0, ‹_›, rfl⟩)
  · rename_i h0
    have hn0 : n ≠ 0 := fun he => h0 (hn.trans he)
    split at h
    · cases h; exact .inr (.inr (.inl ⟨hn0, ‹_›, rfl⟩))
    · rename_i hl
      have hl' : s.offer.late = false := by simpa using hl
      split at h
      · cases h; exact .inr (.inr (.inr (.inl ⟨hn0, hl', ‹_›, rfl⟩)))
      · cases h; exact .inr (.inr (.inr (.inr ⟨hn0, hl', ‹_›, rfl⟩)))

end Sys2Proof.Machine
end

