-- ==== Sys2Proof/Laws/Meanings.lean ====
section
/-! SUPPORT. One lemma for each meaning: all that the instruction can have done when it answers a next state. Every one has the case of
the step that was not enabled because RESET had not happened, `Asleep`. -/

namespace Sys2Proof.Machine

/-- The step was not enabled, RESET not having happened, and nothing changed. -/
abbrev Asleep (s s' : State) : Prop := s.halted = none ∧ s.booted = false ∧ s' = s

variable {s s' : State}

theorem execReset_next {createOk busOk : Bool} (h : execReset createOk busOk s = .next s') :
    s.halted = none ∧ s.offer.agent = .environment ∧
    ((s.booted = true ∧ s' = s) ∨
     (s.booted = false ∧ createOk = false ∧ s' = haltedWith (resetFields s) .resourceCreationFailed) ∨
     (s.booted = false ∧ createOk = true ∧ busOk = false ∧ s' = haltedWith (resetFields s) .startupBusUnavailable) ∨
     (s.booted = false ∧ createOk = true ∧ busOk = true ∧ s' = resetFields s)) := by
  unfold execReset at h
  split at h
  · cases h
  · rename_i hh
    split at h
    · rename_i ha
      refine ⟨hh, ha, ?_⟩
      split at h
      · cases h; exact .inl ⟨‹_›, rfl⟩
      · rename_i hb
        have hb : s.booted = false := by simpa using hb
        split at h
        · cases h; exact .inr (.inl ⟨hb, ‹_›, rfl⟩)
        · rename_i hc
          have hc : createOk = true := by simpa using hc
          split at h
          · cases h; exact .inr (.inr (.inl ⟨hb, hc, ‹_›, rfl⟩))
          · rename_i ho
            cases h; exact .inr (.inr (.inr ⟨hb, hc, by simpa using ho, rfl⟩))
    · cases h

theorem execEncIsr_next {sigs : U8} (h : execEncIsr sigs s = .next s') :
    Asleep s s' ∨ (StepOf s .encIsr ∧ (∀ i : EncIx, (encCell s sigs i).isSome = true) ∧ s' = interruptEncoders s sigs) := by
  rcases asAgent_next h with h | ⟨ha, h⟩
  · exact .inl h
  split at h
  · rename_i hc
    cases h
    refine .inr ⟨ha, fun i => ?_, rfl⟩
    exact List.all_eq_true.mp hc i (by fin_cases i <;> simp)
  · cases h

theorem execAudioTick_next {src : AudioSrc} {adc0 adc1 : U12} (h : execAudioTick src adc0 adc1 s = .next s') :
    Asleep s s' ∨ (StepOf s .audioIsr ∧
      ((src = .expected ∧ s' = audioSample adc0 adc1 s) ∨ (src ≠ .expected ∧ s' = haltedWith s .audioSourceMismatch))) := by
  rcases asAgent_next h with h | ⟨ha, h⟩
  · exact .inl h
  split at h <;> cases h
  · exact .inr ⟨ha, .inl ⟨‹_›, rfl⟩⟩
  · exact .inr ⟨ha, .inr ⟨‹_›, rfl⟩⟩

theorem execToneEdge_next (h : execToneEdge s = .next s') :
    Asleep s s' ∨ (StepOf s .toneTimer ∧
      s' = if s.tone.running then { s with tone := { s.tone with phase := !s.tone.phase } } else s) := by
  rcases asAgent_next h with h | ⟨ha, h⟩
  · exact .inl h
  refine .inr ⟨ha, ?_⟩
  split at h <;> cases h <;> simp_all

theorem execBusComplete_next {resp : U32} (h : execBusComplete resp s = .next s') :
    Asleep s s' ∨ (StepOf s .busDev ∧
      ((s.xfer = .inFlight ∧ s' = { s with rxReg := resp, xfer := .done }) ∨
       (s.xfer = .stale ∧ s' = { s with rxReg := resp, xfer := .idle }) ∨
       ((s.xfer = .idle ∨ s.xfer = .done) ∧ s' = s))) := by
  rcases asAgent_next h with h | ⟨ha, h⟩
  · exact .inl h
  refine .inr ⟨ha, ?_⟩
  split at h <;> cases h <;> simp_all

theorem execTick_next (h : execTick s = .next s') :
    Asleep s s' ∨ (StepOf s .tickSrc ∧ s' = { s with tick := s.tick + 1 }) := by
  rcases asAgent_next h with h | ⟨ha, h⟩
  · exact .inl h
  cases h
  exact .inr ⟨ha, rfl⟩

/-- SET_MODE's four micro-steps, the second with the micro-steps of its nested call. -/
theorem execSetMode_next {mode : AudioMode} (h : execSetMode mode s = .next s') :
    Asleep s s' ∨ ∃ t n c, AtStep s t (.setMode mode) n c ∧
      ((n = 0 ∧ mode = s.mode ∧ s' = returned s t c .none) ∨
       (n = 0 ∧ mode ≠ s.mode ∧ s' = movedTo s t c 1) ∨
       (n = 1 ∧ ∃ m, freqNext 0 c.locals.nested s = some m ∧
          s' = (freqEffect 0 c.locals.nested s).setTask t { c with locals := { c.locals with nested := m } }) ∨
       (n = 1 ∧ freqNext 0 c.locals.nested s = none ∧ s' = movedTo (freqEffect 0 c.locals.nested s) t c 2) ∨
       (n = 2 ∧ s' = movedTo { s with mode := mode } t c 3) ∨
       (3 ≤ n ∧ s' = returned (applyEnable mode s) t c .none)) := by
  rcases asTask_next h with h | ⟨t, n, c, hat, h⟩
  · exact .inl h
  refine .inr ⟨t, n, c, hat, ?_⟩
  have hn := hat.step_eq
  subst hn
  split at h
  · split at h <;> cases h
    · exact .inl ⟨‹_›, ‹_›, rfl⟩
    · exact .inr (.inl ⟨‹_›, ‹_›, rfl⟩)
  · dsimp only at h
    split at h <;> cases h
    · exact .inr (.inr (.inl ⟨‹_›, _, ‹_›, rfl⟩))
    · exact .inr (.inr (.inr (.inl ⟨‹_›, ‹_›, rfl⟩)))
  · cases h
    exact .inr (.inr (.inr (.inr (.inl ⟨‹_›, rfl⟩))))
  · cases h
    refine .inr (.inr (.inr (.inr (.inr ⟨?_, rfl⟩))))
    rename_i h0 h1 h2
    have h0' : c.step ≠ 0 := h0
    have h1' : c.step ≠ 1 := h1
    have h2' : c.step ≠ 2 := h2
    omega

theorem execSetFrequency_next {hz : U32} (h : execSetFrequency hz s = .next s') :
    Asleep s s' ∨ ∃ t n c, AtStep s t (.setFrequency hz) n c ∧
      ((∃ m, freqNext hz n s = some m ∧ s' = movedTo (freqEffect hz n s) t c m) ∨
       (freqNext hz n s = none ∧ s' = returned (freqEffect hz n s) t c .none)) := by
  rcases asTask_next h with h | ⟨t, n, c, hat, h⟩
  · exact .inl h
  refine .inr ⟨t, n, c, hat, ?_⟩
  have hn := hat.step_eq
  subst hn
  split at h <;> cases h
  · exact .inl ⟨_, ‹_›, rfl⟩
  · exact .inr ⟨‹_›, rfl⟩

theorem execSetVolume_next {vol : U8} (h : execSetVolume vol s = .next s') :
    Asleep s s' ∨ ∃ t n c, AtStep s t (.setVolume vol) n c ∧ s' = returned { s with volume := vol } t c .none := by
  rcases asTask_next h with h | ⟨t, n, c, hat, h⟩
  · exact .inl h
  cases h
  exact .inr ⟨t, n, c, hat, rfl⟩

theorem execBusAcquire_next {ms : U32} (h : execBusAcquire ms s = .next s') :
    Asleep s s' ∨ ∃ t n c, AtStep s t (.busAcquire ms) n c ∧
      ((s.owner = none ∧ s' = returned { s with owner := some t } t c (.okTok t)) ∨
       s' = returned s t c .timeoutError ∨
       (s.owner ≠ none ∧ n = 0 ∧ s' = movedTo s t c 1) ∨
       (s.owner ≠ none ∧ n ≠ 0 ∧ s' = { s with task := s.task.set t c })) := by
  rcases asTask_next h with h | ⟨t, n, c, hat, h⟩
  · exact .inl h
  refine .inr ⟨t, n, c, hat, ?_⟩
  have hn := hat.step_eq
  subst hn
  split at h
  · split at h
    · cases h; exact .inl ⟨‹_›, rfl⟩
    · split at h <;> cases h
      · exact .inr (.inl rfl)
      · exact .inr (.inr (.inl ⟨‹_›, ‹_›, rfl⟩))
  · split at h
    · cases h; exact .inr (.inl rfl)
    · split at h <;> cases h
      · exact .inl ⟨‹_›, rfl⟩
      · exact .inr (.inr (.inr ⟨‹_›, by assumption, rfl⟩))

theorem execBusRelease_next {tok : U32} (h : execBusRelease tok s = .next s') :
    Asleep s s' ∨ ∃ t n c, AtStep s t (.busRelease tok) n c ∧
      ((s.owner = some t ∧ tok.toNat = t ∧ s' = returned { s with owner := none } t c .none) ∨
       (¬(s.owner = some t ∧ tok.toNat = t) ∧ s' = haltedWith { s with task := s.task.set t c } .busReleaseFailed)) := by
  rcases asTask_next h with h | ⟨t, n, c, hat, h⟩
  · exact .inl h
  refine .inr ⟨t, n, c, hat, ?_⟩
  simp only [isToken, decide_eq_true_eq] at h
  split at h <;> cases h
  · rename_i ho; exact .inl ⟨ho.1, ho.2, rfl⟩
  · exact .inr ⟨‹_›, rfl⟩

theorem execSendUiEvent_next {arg : UiArg} (h : execSendUiEvent arg s = .next s') :
    Asleep s s' ∨ ∃ t n c, AtStep s t (.sendUiEvent arg) n c ∧
      ((tagUnknown arg = true ∧ s' = haltedWith { s with task := s.task.set t c } .unknownEventTag) ∨
       (tagUnknown arg = false ∧ ∃ ev, uiEventOf s.cfg arg = some ev ∧
         ((s.qPrimary.length < s.cfg.primaryDepth ∧ s' = returned { s with qPrimary := s.qPrimary ++ [ev] } t c .sent) ∨
          s' = returned s t c .full ∨ s' = { s with task := s.task.set t c }))) := by
  rcases asTask_next h with h | ⟨t, n, c, hat, h⟩
  · exact .inl h
  refine .inr ⟨t, n, c, hat, ?_⟩
  split at h
  · cases h; exact .inl ⟨‹_›, rfl⟩
  · rename_i hu
    refine .inr ⟨by simpa using hu, ?_⟩
    split at h
    · cases h
    · rename_i ev hev
      refine ⟨ev, hev, ?_⟩
      split at h
      · rename_i q hq
        obtain ⟨hl, rfl⟩ := qSend_some hq
        cases h; exact .inl ⟨hl, rfl⟩
      · split at h <;> cases h
        · exact .inr (.inl rfl)
        · exact .inr (.inr rfl)

theorem execRecvUiEvent_next (h : execRecvUiEvent s = .next s') :
    Asleep s s' ∨ ∃ t n c, AtStep s t .recvUiEvent n c ∧
      ((s.qPrimary = [] ∧ s' = { s with task := s.task.set t c }) ∨
       ∃ ev q, s.qPrimary = ev :: q ∧ s' = returned { s with qPrimary := q } t c (.event ev)) := by
  rcases asTask_next h with h | ⟨t, n, c, hat, h⟩
  · exact .inl h
  refine .inr ⟨t, n, c, hat, ?_⟩
  split at h <;> cases h
  · exact .inl ⟨‹_›, rfl⟩
  · exact .inr ⟨_, _, ‹_›, rfl⟩

theorem execRecvDiagEvent_next (h : execRecvDiagEvent s = .next s') :
    Asleep s s' ∨ ∃ t n c, AtStep s t .recvDiagEvent n c ∧
      ((s.qDiag = [] ∧ s' = { s with task := s.task.set t c }) ∨
       ∃ m q, s.qDiag = m :: q ∧ s' = returned { s with qDiag := q } t c (.move m)) := by
  rcases asTask_next h with h | ⟨t, n, c, hat, h⟩
  · exact .inl h
  refine .inr ⟨t, n, c, hat, ?_⟩
  split at h <;> cases h
  · exact .inl ⟨‹_›, rfl⟩
  · exact .inr ⟨_, _, ‹_›, rfl⟩

theorem execReadOverflow_next (h : execReadOverflow s = .next s') :
    Asleep s s' ∨ ∃ t n c, AtStep s t .readOverflow n c ∧ s' = returned s t c (.flag s.overflow) := by
  rcases asTask_next h with h | ⟨t, n, c, hat, h⟩
  · exact .inl h
  cases h
  exact .inr ⟨t, n, c, hat, rfl⟩

theorem execClearOverflow_next (h : execClearOverflow s = .next s') :
    Asleep s s' ∨ ∃ t n c, AtStep s t .clearOverflow n c ∧ s' = returned { s with overflow := false } t c .none := by
  rcases asTask_next h with h | ⟨t, n, c, hat, h⟩
  · exact .inl h
  cases h
  exact .inr ⟨t, n, c, hat, rfl⟩

/-- READ_ENC_DIAG takes one read of an encoder and moves on, or returns the snapshot after the last; the state it reads at step 0 is legal. -/
theorem execReadEncDiag_next {idx : U8} (h : execReadEncDiag idx s = .next s') :
    Asleep s s' ∨ ∃ t n c, ∃ (_ : idx.toNat < 4) (l : Locals), AtStep s t (.readEncDiag idx) n c ∧
      (c.step = 0 → legalState s.cfg.profiles[idx.toNat] s.enc[idx.toNat].st = true) ∧
      l = { c.locals with snap := readDiag s.enc[idx.toNat] c.step c.locals.snap } ∧
      ((c.step < 11 ∧ s' = movedTo s t { c with locals := l } (c.step + 1)) ∨
        (11 ≤ c.step ∧ s' = returned s t { c with locals := l } (.snapshot l.snap))) := by
  rcases asTask_next h with h | ⟨t, n, c, hat, h⟩
  · exact .inl h
  split at h
  · rename_i hi
    split at h
    · cases h
    · rename_i hl
      refine .inr ⟨t, n, c, hi, _, hat, fun h0 => by simpa [h0] using hl, rfl, ?_⟩
      dsimp only at h
      split at h <;> cases h
      · exact .inl ⟨‹_›, rfl⟩
      · exact .inr ⟨Nat.le_of_not_lt ‹_›, rfl⟩
  · cases h

theorem execQdDecode_next {p : EncoderProfile} {st : StIx} {sig : Signal} (h : execQdDecode p st sig s = .next s') :
    Asleep s s' ∨ (StepOf s .encIsr ∧ ∃ dir next, decodeCell s.cfg p st sig = some (dir, next) ∧
      s' = { s with fnResult := .decoded next dir }) := by
  rcases asAgent_next h with h | ⟨ha, h⟩
  · exact .inl h
  split at h <;> cases h
  exact .inr ⟨ha, _, _, ‹_›, rfl⟩

theorem execQdHistory_next {i : EncIx} {st2 : StIx} {sig : Signal} {dir : Direction} {now : U32}
    (h : execQdHistory i st2 sig dir now s = .next s') :
    Asleep s s' ∨ (StepOf s .encIsr ∧ legalState s.cfg.profiles[i] st2 = true ∧
      s' = { s with enc := s.enc.set i (recordHist s.enc[i] st2 sig dir now), fnResult := .none }) := by
  rcases asAgent_next h with h | ⟨ha, h⟩
  · exact .inl h
  split at h <;> cases h
  exact .inr ⟨ha, ‹_›, rfl⟩

theorem execEbBridge_next {ms : List EncoderMove} (h : execEbBridge ms s = .next s') :
    Asleep s s' ∨ (StepOf s .encIsr ∧ movesWf ms = true ∧
      s' = { bridge ms s with fnResult := .yieldFlag (bridgeYield ms s) }) := by
  rcases asAgent_next h with h | ⟨ha, h⟩
  · exact .inl h
  split at h <;> cases h
  exact .inr ⟨ha, ‹_›, rfl⟩

theorem execToneBestDivisor_next {hz : U32} (h : execToneBestDivisor hz s = .next s') :
    Asleep s s' ∨ (Running s ∧ ∃ t, s.offer.agent = .task t ∧ t < s.task.length ∧ hz ≠ 0 ∧
      s' = { s with fnResult := .divisor (bestDivisor s.cfg hz.toNat).1 (bestDivisor s.cfg hz.toNat).2 }) := by
  rcases live_next h with h | ⟨hr, h⟩
  · exact .inl h
  split at h
  · rename_i t ha
    split at h
    · cases h
    · split at h <;> cases h
      exact .inr ⟨hr, t, ha, by omega, ‹_›, rfl⟩
  · cases h

/-! ### What the named updates of the meanings leave alone -/

/-- The event bridge writes the two queues and the overflow flag. -/
theorem bridge_frame (ms : List EncoderMove) (s : State) :
    ∃ q d o, bridge ms s = { s with qPrimary := q, qDiag := d, overflow := o } := by
  induction ms generalizing s with
  | nil => exact ⟨_, _, _, rfl⟩
  | cons m ms ih =>
    have h1 : ∃ q d o, bridgeOne m s = { s with qPrimary := q, qDiag := d, overflow := o } := by
      unfold bridgeOne sendDiag sendPrimary State.setOverflow
      repeat' split
      all_goals exact ⟨_, _, _, rfl⟩
    obtain ⟨q, d, o, h1⟩ := h1
    obtain ⟨q', d', o', h2⟩ := ih (bridgeOne m s)
    exact ⟨q', d', o', by rw [bridge, h2, h1]⟩

/-- What one round of the bridge does: each queue takes the move while it has room, and a primary queue without room sets the flag. -/
theorem bridgeOne_eq (m : EncoderMove) (s : State) : bridgeOne m s =
    { s with
      qPrimary := if s.qPrimary.length < s.cfg.primaryDepth then s.qPrimary ++ [.encoderMove m] else s.qPrimary
      qDiag := if s.qDiag.length < s.cfg.diagDepth then s.qDiag ++ [m] else s.qDiag
      overflow := s.overflow || decide (s.cfg.primaryDepth ≤ s.qPrimary.length) } := by
  unfold bridgeOne sendPrimary qSend
  by_cases h1 : s.qPrimary.length < s.cfg.primaryDepth <;> by_cases h2 : s.qDiag.length < s.cfg.diagDepth
  all_goals simp [sendDiag, qSend, State.setOverflow, h1, h2, Nat.not_le.mpr, Nat.not_lt.mp]

/-- ENC_ISR writes the encoders, the two queues, the overflow flag and the trace. -/
theorem interruptEncoders_frame (s : State) (sigs : U8) : ∃ q d o tr, interruptEncoders s sigs =
    { s with enc := (sampled s sigs).enc, qPrimary := q, qDiag := d, overflow := o, trace := tr } := by
  obtain ⟨q, d, o, h⟩ := bridge_frame (encMoves s sigs) (sampled s sigs)
  unfold interruptEncoders
  dsimp only
  rw [h]
  split <;> exact ⟨q, d, o, _, rfl⟩

/-- The two output writes, each with its event, the DAC's first. -/
theorem writeOutputs_eq (dac duty : Nat) (s : State) : writeOutputs dac duty s =
    { s with dacOut := BitVec.ofNat 12 dac, pwmDuty := duty,
             trace := s.trace ++ [.dacWrite (BitVec.ofNat 12 dac), .dutyWrite duty] } := by
  simp [writeOutputs, State.log]

/-- The audio sample writes the two outputs and the trace. -/
theorem audioSample_frame (adc0 adc1 : U12) (s : State) :
    ∃ v d es, audioSample adc0 adc1 s = { s with dacOut := v, pwmDuty := d, trace := s.trace ++ es } := by
  unfold audioSample
  split
  · exact ⟨s.dacOut, s.pwmDuty, [], by simp⟩
  all_goals exact ⟨_, _, _, writeOutputs_eq _ _ s⟩

/-- SET_FREQUENCY's micro-steps write the timer, the trace and the count of draws. -/
theorem freqEffect_frame (hz : U32) (k : Nat) (s : State) :
    ∃ tone es n, freqEffect hz k s = { s with tone := tone, trace := s.trace ++ es, drawCount := n } := by
  unfold freqEffect
  split
  · exact ⟨s.tone, [], s.drawCount, by simp⟩
  · exact ⟨_, [_], _, rfl⟩
  · split
    · exact ⟨{ s.tone with freq := 0 }, [], s.drawCount, by simp [recordStopped]⟩
    · exact ⟨_, [_], _, rfl⟩

/-- SET_MODE's output enable writes that flag and the trace. -/
theorem applyEnable_eq (new : AudioMode) (s : State) : applyEnable new s =
    { s with pwmEnabled := decide (new ≠ .off), trace := s.trace ++ [if new = .off then .pwmDisable else .pwmEnable] } := by
  by_cases h : new = .off <;> simp [applyEnable, State.log, h]

end Sys2Proof.Machine
end

