-- ==== Sys2Proof/Laws/Exec.lean ====
section
/-! SUPPORT. All that any instruction can do, said once: `Did i s s'` lists the ways in which `exec i s` answers the next state `s'`. -/

namespace Sys2Proof.Machine

/-- How instruction `i` took the state `s` to the state `s'`. Every constructor but `asleep` and `reset…` is a step of a running machine. -/
inductive Did (s : State) : Instr → State → Prop where
  /-- RESET had not happened, and the step was not enabled. -/
  | asleep (i : Instr) (hh : s.halted = none) (hb : s.booted = false) (hi : isReset i = false) : Did s i s
  /-- RESET, when it is not enabled any more. -/
  | resetAgain (c b : Bool) (h : StepOf s .environment) : Did s (.reset c b) s
  | resetCreation (b : Bool) (hh : s.halted = none) (hb : s.booted = false) (ha : s.offer.agent = .environment) :
      Did s (.reset false b) (haltedWith (resetFields s) .resourceCreationFailed)
  | resetBus (hh : s.halted = none) (hb : s.booted = false) (ha : s.offer.agent = .environment) :
      Did s (.reset true false) (haltedWith (resetFields s) .startupBusUnavailable)
  | resetDone (hh : s.halted = none) (hb : s.booted = false) (ha : s.offer.agent = .environment) :
      Did s (.reset true true) (resetFields s)
  | interrupt (sigs : U8) (h : StepOf s .encIsr) (hc : ∀ i : EncIx, (encCell s sigs i).isSome = true) :
      Did s (.encIsr sigs) (interruptEncoders s sigs)
  | sample (adc0 adc1 : U12) (h : StepOf s .audioIsr) : Did s (.audioTick .expected adc0 adc1) (audioSample adc0 adc1 s)
  | mismatch (src : AudioSrc) (adc0 adc1 : U12) (h : StepOf s .audioIsr) (hs : src ≠ .expected) :
      Did s (.audioTick src adc0 adc1) (haltedWith s .audioSourceMismatch)
  | edge (h : StepOf s .toneTimer) (hr : s.tone.running = true) :
      Did s .toneEdge { s with tone := { s.tone with phase := !s.tone.phase } }
  | noEdge (h : StepOf s .toneTimer) (hr : s.tone.running = false) : Did s .toneEdge s
  | complete (resp : U32) (h : StepOf s .busDev) (hx : s.xfer = .inFlight) :
      Did s (.busComplete resp) { s with rxReg := resp, xfer := .done }
  | completeStale (resp : U32) (h : StepOf s .busDev) (hx : s.xfer = .stale) :
      Did s (.busComplete resp) { s with rxReg := resp, xfer := .idle }
  | noComplete (resp : U32) (h : StepOf s .busDev) (hx : s.xfer = .idle ∨ s.xfer = .done) : Did s (.busComplete resp) s
  | ticked (h : StepOf s .tickSrc) : Did s .tick { s with tick := s.tick + 1 }
  | decoded (p : EncoderProfile) (st : StIx) (sig : Signal) (dir : Direction) (next : StIx) (h : StepOf s .encIsr)
      (hc : decodeCell s.cfg p st sig = some (dir, next)) :
      Did s (.qdDecode p st sig) { s with fnResult := .decoded next dir }
  | recorded (i : EncIx) (st2 : StIx) (sig : Signal) (dir : Direction) (now : U32) (h : StepOf s .encIsr)
      (hl : legalState s.cfg.profiles[i] st2 = true) :
      Did s (.qdHistory i st2 sig dir now)
        { s with enc := s.enc.set i (recordHist s.enc[i] st2 sig dir now), fnResult := .none }
  | bridged (ms : List EncoderMove) (h : StepOf s .encIsr) (hw : movesWf ms = true) :
      Did s (.ebBridge ms) { bridge ms s with fnResult := .yieldFlag (bridgeYield ms s) }
  | searched (hz : U32) (t : Nat) (h : StepOf s (.task t)) (ht : t < s.task.length) (hz0 : hz ≠ 0) :
      Did s (.toneBestDivisor hz)
        { s with fnResult := .divisor (bestDivisor s.cfg hz.toNat).1 (bestDivisor s.cfg hz.toNat).2 }
  /-- A task's operation that stays at work, or waits, or returns, with no effect but on its own control state. -/
  | control (i : Instr) (t n : Nat) (c c' : TaskCtl) (h : AtStep s t i n c) (hi : isTaskOp i = true)
      (hc : c'.op = none ∨ (c'.op = some i ∧ (isTransceive i = true → c'.step = n))) (hx : isTransceive i = true → c'.op = some i) :
      Did s i { s with task := s.task.set t c' }
  | freqStep (i : Instr) (hz : U32) (k t n : Nat) (c c' : TaskCtl) (h : AtStep s t i n c)
      (hi : i = .setFrequency hz ∨ (hz = 0 ∧ ∃ m, i = .setMode m)) (hc : c'.op = none ∨ c'.op = some i) :
      Did s i ((freqEffect hz k s).setTask t c')
  | modeWrite (new : AudioMode) (t : Nat) (c : TaskCtl) (h : AtStep s t (.setMode new) 2 c) :
      Did s (.setMode new) (movedTo { s with mode := new } t c 3)
  | modeEnable (new : AudioMode) (t n : Nat) (c : TaskCtl) (h : AtStep s t (.setMode new) n c) (hn : 3 ≤ n) :
      Did s (.setMode new) (returned (applyEnable new s) t c .none)
  | volumeWrite (vol : U8) (t n : Nat) (c : TaskCtl) (h : AtStep s t (.setVolume vol) n c) :
      Did s (.setVolume vol) (returned { s with volume := vol } t c .none)
  | granted (ms : U32) (t n : Nat) (c : TaskCtl) (h : AtStep s t (.busAcquire ms) n c) (ho : s.owner = none) :
      Did s (.busAcquire ms) (returned { s with owner := some t } t c (.okTok t))
  | released (tok : U32) (t n : Nat) (c : TaskCtl) (h : AtStep s t (.busRelease tok) n c) (ho : s.owner = some t)
      (ht : tok.toNat = t) : Did s (.busRelease tok) (returned { s with owner := none } t c .none)
  | badRelease (tok : U32) (t n : Nat) (c : TaskCtl) (h : AtStep s t (.busRelease tok) n c)
      (ho : s.owner ≠ some t ∨ tok.toNat ≠ t) :
      Did s (.busRelease tok) (haltedWith { s with task := s.task.set t c } .busReleaseFailed)
  | transferred (i : Instr) (word : U32) (t : Nat) (c : TaskCtl) (h : AtStep s t i 0 c) (hi : isTransceive i = true)
      (ho : s.owner = some t) (hw : reservedClear word = true) : Did s i (movedTo (startTransfer word s) t c 1)
  | badTransfer (i : Instr) (t : Nat) (c : TaskCtl) (h : AtStep s t i 0 c) (hi : isTransceive i = true)
      (ho : s.owner ≠ some t ∨ ∃ tok word, i = .busTransceive tok word ∧ tok.toNat ≠ t) :
      Did s i (haltedWith { s with task := s.task.set t c } .transceiveWithoutOwnership)
  | transferLate (i : Instr) (t n : Nat) (c : TaskCtl) (h : AtStep s t i n c) (hi : isTransceive i = true) (hn : n ≠ 0) :
      Did s i (returned { s with xfer := if s.xfer = .done then .idle else .stale } t c (.xferTimeout s.rxReg))
  | transferReady (i : Instr) (t n : Nat) (c : TaskCtl) (h : AtStep s t i n c) (hi : isTransceive i = true) (hn : n ≠ 0)
      (hx : s.xfer = .done) : Did s i (returned { s with xfer := .idle } t c (.okResp s.rxReg))
  | sent (arg : UiArg) (ev : UiEvent) (t n : Nat) (c : TaskCtl) (h : AtStep s t (.sendUiEvent arg) n c)
      (he : uiEventOf s.cfg arg = some ev) (hq : s.qPrimary.length < s.cfg.primaryDepth) :
      Did s (.sendUiEvent arg) (returned { s with qPrimary := s.qPrimary ++ [ev] } t c .sent)
  | badTag (arg : UiArg) (t n : Nat) (c : TaskCtl) (h : AtStep s t (.sendUiEvent arg) n c) (hu : tagUnknown arg = true) :
      Did s (.sendUiEvent arg) (haltedWith { s with task := s.task.set t c } .unknownEventTag)
  | receivedUi (ev : UiEvent) (q : List UiEvent) (t n : Nat) (c : TaskCtl) (h : AtStep s t .recvUiEvent n c)
      (hq : s.qPrimary = ev :: q) : Did s .recvUiEvent (returned { s with qPrimary := q } t c (.event ev))
  | receivedDiag (m : EncoderMove) (q : List EncoderMove) (t n : Nat) (c : TaskCtl) (h : AtStep s t .recvDiagEvent n c)
      (hq : s.qDiag = m :: q) : Did s .recvDiagEvent (returned { s with qDiag := q } t c (.move m))
  | cleared (t n : Nat) (c : TaskCtl) (h : AtStep s t .clearOverflow n c) :
      Did s .clearOverflow (returned { s with overflow := false } t c .none)

variable {s s' : State}

/-- `Did.control` for the end of an operation that is no transfer. -/
theorem did_returned {i : Instr} {t n : Nat} {c : TaskCtl} (r : Result) (h : AtStep s t i n c) (hi : isTaskOp i = true)
    (hx : isTransceive i = false) : Did s i (returned s t c r) :=
  .control i t n c _ h hi (.inl rfl) (by simp [hx])

/-- `Did.control` for a wait. -/
theorem did_hold {i : Instr} {t n : Nat} {c : TaskCtl} (h : AtStep s t i n c) (hi : isTaskOp i = true) :
    Did s i { s with task := s.task.set t c } :=
  .control i t n c _ h hi (.inr ⟨h.op_eq, fun _ => h.step_eq⟩) (fun _ => h.op_eq)

/-- `Did.control` for a move to another micro-step in an operation that is no transfer. -/
theorem did_moved {i : Instr} {t n : Nat} {c : TaskCtl} (k : Nat) (h : AtStep s t i n c) (hi : isTaskOp i = true)
    (hx : isTransceive i = false) : Did s i (movedTo s t c k) :=
  .control i t n c _ h hi (.inr ⟨h.op_eq, by simp [hx]⟩) (by simp [hx])

/-- The transfers, whatever their spelling. -/
theorem transceive_did {i : Instr} {mine : Nat → Bool} {word : U32} (hi : isTransceive i = true) (ht : isTaskOp i = true)
    (hr : isReset i = false) (hm : ∀ t, mine t = false → ∃ tok word, i = .busTransceive tok word ∧ tok.toNat ≠ t)
    (h : transceive i mine word s = .next s') : Did s i s' := by
  rcases transceive_next h with ⟨hh, hb, rfl⟩ | ⟨t, n, c, hat, h⟩
  · exact .asleep i hh hb hr
  rcases h with ⟨rfl, ho, -, hw, rfl⟩ | ⟨rfl, ho, rfl⟩ | ⟨hn, -, rfl⟩ | ⟨hn, -, hx, rfl⟩ | ⟨-, -, -, rfl⟩
  · exact .transferred i word t c hat hi ho hw
  · refine .badTransfer i t c hat hi ?_
    by_cases he : s.owner = some t
    · exact .inr (hm t (by simpa [he] using ho))
    · exact .inl he
  · exact .transferLate i t n c hat hi hn
  · exact .transferReady i t n c hat hi hn hx
  · exact did_hold hat ht

/-- All that any instruction can have done when it answers a next state. -/
theorem exec_did {i : Instr} (h : exec i s = .next s') : Did s i s' := by
  cases i with
  | reset c b =>
    obtain ⟨hh, ha, ⟨hb, rfl⟩ | ⟨hb, rfl, rfl⟩ | ⟨hb, rfl, rfl, rfl⟩ | ⟨hb, rfl, rfl, rfl⟩⟩ := execReset_next h
    · exact .resetAgain c b ⟨⟨hh, hb⟩, ha⟩
    · exact .resetCreation b hh hb ha
    · exact .resetBus hh hb ha
    · exact .resetDone hh hb ha
  | encIsr sigs =>
    rcases execEncIsr_next h with ⟨hh, hb, rfl⟩ | ⟨ha, hc, rfl⟩
    · exact .asleep _ hh hb rfl
    · exact .interrupt sigs ha hc
  | audioTick src adc0 adc1 =>
    rcases execAudioTick_next h with ⟨hh, hb, rfl⟩ | ⟨ha, ⟨rfl, rfl⟩ | ⟨hs, rfl⟩⟩
    · exact .asleep _ hh hb rfl
    · exact .sample adc0 adc1 ha
    · exact .mismatch src adc0 adc1 ha hs
  | toneEdge =>
    rcases execToneEdge_next h with ⟨hh, hb, rfl⟩ | ⟨ha, rfl⟩
    · exact .asleep _ hh hb rfl
    · cases hr : s.tone.running
      · exact .noEdge ha hr
      · exact .edge ha hr
  | busComplete resp =>
    rcases execBusComplete_next h with ⟨hh, hb, rfl⟩ | ⟨ha, ⟨hx, rfl⟩ | ⟨hx, rfl⟩ | ⟨hx, rfl⟩⟩
    · exact .asleep _ hh hb rfl
    · exact .complete resp ha hx
    · exact .completeStale resp ha hx
    · exact .noComplete resp ha hx
  | tick =>
    rcases execTick_next h with ⟨hh, hb, rfl⟩ | ⟨ha, rfl⟩
    · exact .asleep _ hh hb rfl
    · exact .ticked ha
  | setMode new =>
    rcases execSetMode_next h with ⟨hh, hb, rfl⟩ | ⟨t, n, c, hat, h⟩
    · exact .asleep _ hh hb rfl
    rcases h with ⟨-, -, rfl⟩ | ⟨-, -, rfl⟩ | ⟨-, m, -, rfl⟩ | ⟨-, -, rfl⟩ | ⟨rfl, rfl⟩ | ⟨hn, rfl⟩
    · exact did_returned _ hat rfl rfl
    · exact did_moved _ hat rfl rfl
    · exact .freqStep _ 0 c.locals.nested t n c _ hat (.inr ⟨rfl, _, rfl⟩) (.inr hat.op_eq)
    · exact .freqStep _ 0 c.locals.nested t n c _ hat (.inr ⟨rfl, _, rfl⟩) (.inr hat.op_eq)
    · exact .modeWrite new t c hat
    · exact .modeEnable new t n c hat hn
  | setFrequency hz =>
    rcases execSetFrequency_next h with ⟨hh, hb, rfl⟩ | ⟨t, n, c, hat, ⟨m, -, rfl⟩ | ⟨-, rfl⟩⟩
    · exact .asleep _ hh hb rfl
    · exact .freqStep _ hz n t n c _ hat (.inl rfl) (.inr hat.op_eq)
    · exact .freqStep _ hz n t n c _ hat (.inl rfl) (.inl rfl)
  | setVolume vol =>
    rcases execSetVolume_next h with ⟨hh, hb, rfl⟩ | ⟨t, n, c, hat, rfl⟩
    · exact .asleep _ hh hb rfl
    · exact .volumeWrite vol t n c hat
  | busAcquire ms =>
    rcases execBusAcquire_next h with ⟨hh, hb, rfl⟩ | ⟨t, n, c, hat, h⟩
    · exact .asleep _ hh hb rfl
    rcases h with ⟨ho, rfl⟩ | rfl | ⟨-, -, rfl⟩ | ⟨-, -, rfl⟩
    · exact .granted ms t n c hat ho
    · exact did_returned _ hat rfl rfl
    · exact did_moved _ hat rfl rfl
    · exact did_hold hat rfl
  | busTransceive tok word =>
    exact transceive_did rfl rfl rfl (fun t ht => ⟨tok, word, rfl, by simpa [isToken] using ht⟩) h
  | busRelease tok =>
    rcases execBusRelease_next h with ⟨hh, hb, rfl⟩ | ⟨t, n, c, hat, ⟨ho, ht, rfl⟩ | ⟨ho, rfl⟩⟩
    · exact .asleep _ hh hb rfl
    · exact .released tok t n c hat ho ht
    · exact .badRelease tok t n c hat (not_and_or.mp ho)
  | sendUiEvent arg =>
    rcases execSendUiEvent_next h with ⟨hh, hb, rfl⟩ | ⟨t, n, c, hat, ⟨hu, rfl⟩ | ⟨-, ev, he, ⟨hq, rfl⟩ | rfl | rfl⟩⟩
    · exact .asleep _ hh hb rfl
    · exact .badTag arg t n c hat hu
    · exact .sent arg ev t n c hat he hq
    · exact did_returned _ hat rfl rfl
    · exact did_hold hat rfl
  | recvUiEvent =>
    rcases execRecvUiEvent_next h with ⟨hh, hb, rfl⟩ | ⟨t, n, c, hat, ⟨-, rfl⟩ | ⟨ev, q, hq, rfl⟩⟩
    · exact .asleep _ hh hb rfl
    · exact did_hold hat rfl
    · exact .receivedUi ev q t n c hat hq
  | recvDiagEvent =>
    rcases execRecvDiagEvent_next h with ⟨hh, hb, rfl⟩ | ⟨t, n, c, hat, ⟨-, rfl⟩ | ⟨m, q, hq, rfl⟩⟩
    · exact .asleep _ hh hb rfl
    · exact did_hold hat rfl
    · exact .receivedDiag m q t n c hat hq
  | readOverflow =>
    rcases execReadOverflow_next h with ⟨hh, hb, rfl⟩ | ⟨t, n, c, hat, rfl⟩
    · exact .asleep _ hh hb rfl
    · exact did_returned _ hat rfl rfl
  | clearOverflow =>
    rcases execClearOverflow_next h with ⟨hh, hb, rfl⟩ | ⟨t, n, c, hat, rfl⟩
    · exact .asleep _ hh hb rfl
    · exact .cleared t n c hat
  | readEncDiag idx =>
    rcases execReadEncDiag_next h with ⟨hh, hb, rfl⟩ | ⟨t, n, c, -, l, hat, -, -, ⟨-, rfl⟩ | ⟨-, rfl⟩⟩
    · exact .asleep _ hh hb rfl
    · exact .control _ t n c _ hat rfl (.inr ⟨hat.op_eq, nofun⟩) nofun
    · exact .control _ t n c _ hat rfl (.inl rfl) nofun
  | qdDecode p st sig =>
    rcases execQdDecode_next h with ⟨hh, hb, rfl⟩ | ⟨ha, dir, next, hc, rfl⟩
    · exact .asleep _ hh hb rfl
    · exact .decoded p st sig dir next ha hc
  | qdHistory i st2 sig dir now =>
    rcases execQdHistory_next h with ⟨hh, hb, rfl⟩ | ⟨ha, hl, rfl⟩
    · exact .asleep _ hh hb rfl
    · exact .recorded i st2 sig dir now ha hl
  | ebBridge ms =>
    rcases execEbBridge_next h with ⟨hh, hb, rfl⟩ | ⟨ha, hw, rfl⟩
    · exact .asleep _ hh hb rfl
    · exact .bridged ms ha hw
  | toneBestDivisor hz =>
    rcases execToneBestDivisor_next h with ⟨hh, hb, rfl⟩ | ⟨hr, t, ha, ht, hz0, rfl⟩
    · exact .asleep _ hh hb rfl
    · exact .searched hz t ⟨hr, ha⟩ ht hz0
  | buswGeneric last ch p => exact transceive_did rfl rfl rfl (by simp) h
  | buswPotWrite last addr value => exact transceive_did rfl rfl rfl (by simp) h
  | buswPotRead last addr => exact transceive_did rfl rfl rfl (by simp) h
  | buswDispCmd last index => exact transceive_did rfl rfl rfl (by simp) h
  | buswDispWrite last value => exact transceive_did rfl rfl rfl (by simp) h
  | buswDispRead last => exact transceive_did rfl rfl rfl (by simp) h

end Sys2Proof.Machine
end

