-- ==== Sys2Proof/Laws/Fairness.lean ====
section
/-! SUPPORT. Weak fairness (R213): under it every wait on the bus ends. -/

namespace Sys2Proof.Machine

/-- A task that waits on the bus is at micro-step 1 of BUS_ACQUIRE or of a transfer. -/
theorem inBusWait_iff {c : TaskCtl} (h : inBusWait c = true) :
    c.step = 1 ∧ ((∃ ms, c.op = some (.busAcquire ms)) ∨ ∃ i, c.op = some i ∧ isTransceive i = true) := by
  obtain ⟨op, step, locals, result⟩ := c
  simp only [inBusWait, inTransfer, Bool.or_eq_true, Bool.and_eq_true, decide_eq_true_eq] at h
  rcases h with ⟨h1, h2⟩ | ⟨h1, h2⟩
  · refine ⟨h1, .inr ?_⟩
    rcases op with _ | i
    · cases h2
    · cases i <;> first | exact ⟨_, rfl, rfl⟩ | cases h2
  · refine ⟨h1, .inl ?_⟩
    rcases op with _ | i
    · cases h2
    · cases i <;> first | exact ⟨_, rfl⟩ | cases h2

/-- (timeout) of a transfer, in any of its spellings, returns (R221). -/
theorem transfer_timeout_returns {s : State} {t : Nat} {c : TaskCtl} {i : Instr} (h : AtStep s t i 1 c) (hi : isTransceive i = true)
    (hl : s.offer.late = true) :
    exec i s = .next (returned { s with xfer := if s.xfer = .done then .idle else .stale } t c (.xferTimeout s.rxReg)) := by
  have key : ∀ mine word, transceive i mine word s =
      .next (returned { s with xfer := if s.xfer = .done then .idle else .stale } t c (.xferTimeout s.rxReg)) := by
    intro mine word
    simp only [transceive, asTask_of_atStep h, h.step_eq, hl, if_true, finish_eq]
  cases i <;> first | exact key _ _ | cases hi

/-- (expire) of BUS_ACQUIRE returns (R212). -/
theorem acquire_expire_returns {s : State} {t : Nat} {c : TaskCtl} {ms : U32} (h : AtStep s t (.busAcquire ms) 1 c)
    (hl : s.offer.late = true) : exec (.busAcquire ms) s = .next (returned s t c .timeoutError) := by
  simp only [exec, execBusAcquire, asTask_of_atStep h, h.step_eq, hl, if_true, finish_eq]

/-- The line that takes a waiting task's timeout makes it return. -/
theorem timeout_returns {s u : State} {t : Nat} {l : Line} (hw : BusWaiting s t) (hl : takesTimeout t l)
    (h : step { s with schedule := [l] } = .next u) : ∃ c, u.task[t]? = some c ∧ c.op = none := by
  obtain ⟨hr, c, hc, hb⟩ := hw
  obtain ⟨ha, hlate, hbody⟩ := hl
  obtain ⟨h1, hop⟩ := inBusWait_iff hb
  have hlt : t < s.task.length := (List.getElem?_eq_some_iff.mp hc).1
  have hstep : ∀ i, c.op = some i → step { s with schedule := [l] } = exec i ({ s with schedule := [l] }.take l []) := by
    intro i hi
    simp [step, hr.1, instrOf, hbody, ha, hc, hi, State.take]
  have hat : ∀ i, c.op = some i → AtStep ({ s with schedule := [l] }.take l []) t i 1 c := fun i hi =>
    ⟨⟨⟨hr.1, hr.2⟩, ha⟩, c, hc, .inr ⟨hi, h1, rfl⟩⟩
  rcases hop with ⟨ms, hi⟩ | ⟨i, hi, htr⟩
  · rw [hstep _ hi, acquire_expire_returns (hat _ hi) hlate] at h
    cases h
    exact ⟨_, List.getElem?_set_self hlt, rfl⟩
  · rw [hstep _ hi, transfer_timeout_returns (hat _ hi) htr hlate] at h
    cases h
    exact ⟨_, List.getElem?_set_self hlt, rfl⟩

/-- R213: in a weakly fair execution no task waits on the bus for ever. -/
theorem bus_wait_ends {lines : Nat → Line} {states : Nat → State} (he : Execution lines states) (hf : WeaklyFair lines states)
    (t n : Nat) : ∃ m, n ≤ m ∧ ¬BusWaiting (states m) t := by
  by_contra hno
  have hall : ∀ m, n ≤ m → BusWaiting (states m) t := fun m hm => by_contra fun h => hno ⟨m, hm, h⟩
  obtain ⟨m, hm, hl⟩ := hf t n hall
  obtain ⟨c, hc, hop⟩ := timeout_returns (hall m hm) hl (he m)
  obtain ⟨-, c', hc', hb⟩ := hall (m + 1) (Nat.le_succ_of_le hm)
  obtain rfl : c = c' := by simpa [hc] using hc'
  rcases (inBusWait_iff hb).2 with ⟨ms, hi⟩ | ⟨i, hi, -⟩ <;> simp [hop] at hi

end Sys2Proof.Machine
end

