-- ==== Sys2Proof/Laws/PerInstr.lean ====
section
/-! SUPPORT. A statement for every instruction: its written form has the fixed bits of its row of spec/opcode_table.json. -/

namespace Sys2Proof.Laws

/-- The row's fixed bits: the operation code of a descriptor (R120), or the mask and match of a request word (R110 to R117). -/
inductive FixedBits where
  | code (c : Nat)
  | word (mask pattern : U32)
deriving DecidableEq, Repr

/-- The fixed bits of each row. -/
def fixedBits : Instr → FixedBits
  | .reset _ _ => .code 0x00
  | .encIsr _ => .code 0x01
  | .audioTick _ _ _ => .code 0x02
  | .toneEdge => .code 0x03
  | .busComplete _ => .code 0x04
  | .tick => .code 0x05
  | .setMode _ => .code 0x10
  | .setFrequency _ => .code 0x11
  | .setVolume _ => .code 0x12
  | .busAcquire _ => .code 0x20
  | .busTransceive _ _ => .code 0x21
  | .busRelease _ => .code 0x22
  | .sendUiEvent _ => .code 0x30
  | .recvUiEvent => .code 0x31
  | .recvDiagEvent => .code 0x32
  | .readOverflow => .code 0x33
  | .clearOverflow => .code 0x34
  | .readEncDiag _ => .code 0x35
  | .qdDecode _ _ _ => .code 0x50
  | .qdHistory _ _ _ _ _ => .code 0x51
  | .ebBridge _ => .code 0x52
  | .toneBestDivisor _ => .code 0x53
  | .buswGeneric _ _ _ => .word 0xFEF00000 0x00000000
  | .buswPotWrite _ _ _ => .word 0xFEF00E00 0x00000000
  | .buswPotRead _ _ => .word 0xFEF00FFF 0x00000C00
  | .buswDispCmd _ _ => .word 0xFEF0FF00 0x00008000
  | .buswDispWrite _ _ => .word 0xFEF0FF00 0x00000000
  | .buswDispRead _ => .word 0xFEF0FFFF 0x00004000

/-- A written form shows the fixed bits of a row. -/
def Shows : Code → FixedBits → Prop
  | .descriptor d, .code c => d % 256 = c
  | .busWord w, .word mask pattern => w &&& mask = pattern
  | .descriptor _, .word _ _ => False
  | .busWord _, .code _ => False

/-- Under every channel numbering, the written form of the instruction shows the fixed bits of its row. -/
def TableMatch.Statement (i : Instr) : Prop := ∀ c : Channels, Shows (encode c i) (fixedBits i)

theorem pack_shows {code : Nat} (h : code < 256) (args : Nat) : Shows (pack code args) (.code code) := by
  simp only [Shows, pack]; omega

theorem TableMatch.reset (a b : Bool) : TableMatch.Statement (.reset a b) := fun _ => pack_shows (by decide) _
theorem TableMatch.encIsr (a : U8) : TableMatch.Statement (.encIsr a) := fun _ => pack_shows (by decide) _
theorem TableMatch.audioTick (a : AudioSrc) (b c : U12) : TableMatch.Statement (.audioTick a b c) := fun _ => pack_shows (by decide) _
theorem TableMatch.toneEdge : TableMatch.Statement .toneEdge := fun _ => pack_shows (by decide) _
theorem TableMatch.busComplete (a : U32) : TableMatch.Statement (.busComplete a) := fun _ => pack_shows (by decide) _
theorem TableMatch.tick : TableMatch.Statement .tick := fun _ => pack_shows (by decide) _
theorem TableMatch.setMode (a : AudioMode) : TableMatch.Statement (.setMode a) := fun _ => pack_shows (by decide) _
theorem TableMatch.setFrequency (a : U32) : TableMatch.Statement (.setFrequency a) := fun _ => pack_shows (by decide) _
theorem TableMatch.setVolume (a : U8) : TableMatch.Statement (.setVolume a) := fun _ => pack_shows (by decide) _
theorem TableMatch.busAcquire (a : U32) : TableMatch.Statement (.busAcquire a) := fun _ => pack_shows (by decide) _
theorem TableMatch.busTransceive (a b : U32) : TableMatch.Statement (.busTransceive a b) := fun _ => pack_shows (by decide) _
theorem TableMatch.busRelease (a : U32) : TableMatch.Statement (.busRelease a) := fun _ => pack_shows (by decide) _
theorem TableMatch.sendUiEvent (a : UiArg) : TableMatch.Statement (.sendUiEvent a) := fun _ => pack_shows (by decide) _
theorem TableMatch.recvUiEvent : TableMatch.Statement .recvUiEvent := fun _ => pack_shows (by decide) _
theorem TableMatch.recvDiagEvent : TableMatch.Statement .recvDiagEvent := fun _ => pack_shows (by decide) _
theorem TableMatch.readOverflow : TableMatch.Statement .readOverflow := fun _ => pack_shows (by decide) _
theorem TableMatch.clearOverflow : TableMatch.Statement .clearOverflow := fun _ => pack_shows (by decide) _
theorem TableMatch.readEncDiag (a : U8) : TableMatch.Statement (.readEncDiag a) := fun _ => pack_shows (by decide) _
theorem TableMatch.qdDecode (p : EncoderProfile) (st : StIx) (sig : Signal) : TableMatch.Statement (.qdDecode p st sig) :=
  fun _ => pack_shows (by decide) _
theorem TableMatch.qdHistory (a : EncIx) (b : StIx) (c : Signal) (d : Direction) (e : U32) :
    TableMatch.Statement (.qdHistory a b c d e) := fun _ => pack_shows (by decide) _
theorem TableMatch.ebBridge (a : List EncoderMove) : TableMatch.Statement (.ebBridge a) := fun _ => pack_shows (by decide) _
theorem TableMatch.toneBestDivisor (a : U32) : TableMatch.Statement (.toneBestDivisor a) := fun _ => pack_shows (by decide) _

/-- Widening a payload to a word puts zeros above it. -/
theorem widen_eq_append (p : U16) : p.setWidth 32 = 0#16 ++ p := by
  apply BitVec.eq_of_toNat_eq
  show _ = (0#16 ++ p : BitVec (16 + 16)).toNat
  rw [BitVec.toNat_append]; simp; omega

/-- An assembled word shows a mask whose field bits its payload shows: the mask takes in the reserved bits and, of the fields, the payload alone. -/
theorem word_shows (last : Bool) (ch : BitVec 4) (p m q : U16) (h : p &&& m = q) :
    Shows (.busWord (Machine.assembleWord last ch p)) (.word (0xFEF00000 ||| m.setWidth 32) (q.setWidth 32)) := by
  subst h
  have hch : ch.setWidth 32 <<< 16 &&& 0xFEF00000#32 = 0#32 := by revert ch; decide
  have hl : (BitVec.ofBool last).setWidth 32 <<< 24 &&& 0xFEF00000#32 = 0#32 := by cases last <;> decide
  have hp : p.setWidth 32 &&& 0xFEF00000#32 = 0#32 := by
    rw [show (0xFEF00000#32) = 0xFEF0#16 ++ 0#16 by decide, widen_eq_append, BitVec.and_append]
    simp
  have hw : ∀ x : BitVec 16, (x ++ 0#16) &&& m.setWidth 32 = 0#32 := by
    intro x; rw [widen_eq_append, BitVec.and_append]; simp
  have hcm : ch.setWidth 32 <<< 16 &&& m.setWidth 32 = 0#32 := by
    rw [show ch.setWidth 32 <<< 16 = ch.setWidth 16 ++ 0#16 by revert ch; decide]; exact hw _
  have hlm : (BitVec.ofBool last).setWidth 32 <<< 24 &&& m.setWidth 32 = 0#32 := by
    rw [show (BitVec.ofBool last).setWidth 32 <<< 24 = ((BitVec.ofBool last).setWidth 16 <<< 8) ++ 0#16 by cases last <;> decide]
    exact hw _
  show (_ ||| _ ||| _) &&& (0xFEF00000#32 ||| _) = _
  simp only [BitVec.and_or_distrib_left, BitVec.and_or_distrib_right, hch, hl, hp, hcm, hlm, BitVec.setWidth_and, BitVec.zero_or]

theorem TableMatch.buswGeneric (a : Bool) (b : BitVec 4) (p : U16) : TableMatch.Statement (.buswGeneric a b p) :=
  fun _ => word_shows a b p 0 0 (by simp)
theorem TableMatch.buswPotWrite (a : Bool) (b : BitVec 4) (v : BitVec 9) : TableMatch.Statement (.buswPotWrite a b v) :=
  fun c => word_shows a c.pot _ 0x0E00 0 (by revert b v; decide)
theorem TableMatch.buswPotRead (a : Bool) (b : BitVec 4) : TableMatch.Statement (.buswPotRead a b) :=
  fun c => word_shows a c.pot _ 0x0FFF 0x0C00 (by revert b; decide)
theorem TableMatch.buswDispCmd (a : Bool) (b : U8) : TableMatch.Statement (.buswDispCmd a b) :=
  fun c => word_shows a c.dispCmd _ 0xFF00 0x8000 (by revert b; decide)
theorem TableMatch.buswDispWrite (a : Bool) (b : U8) : TableMatch.Statement (.buswDispWrite a b) :=
  fun c => word_shows a c.dispData _ 0xFF00 0x0000 (by revert b; decide)
theorem TableMatch.buswDispRead (a : Bool) : TableMatch.Statement (.buswDispRead a) :=
  fun c => word_shows a c.dispData _ 0xFFFF 0x4000 (by decide)

end Sys2Proof.Laws
end

