-- ==== Sys2Proof/Laws/Tables.lean ====
section
/-! SUPPORT. What the checks of R146 on a Profile B table say of every sequence of samples. -/

namespace Sys2Proof.Machine

/-- The directions of the full paths that a sequence of samples completes, one entry for each sample. -/
def Excursion.fullPaths (d : Turn) : Excursion → List Signal → List Direction
  | _, [] => []
  | x, sig :: sigs => x.completes d sig :: Excursion.fullPaths d (x.next sig) sigs

/-- Every sample is one the check admits. -/
def Excursion.admitsAll (admits : Excursion → Signal → Bool) : Excursion → List Signal → Bool
  | _, [] => true
  | x, sig :: sigs => admits x sig && Excursion.admitsAll admits (x.next sig) sigs

theorem mem_allSignals (sig : Signal) : sig ∈ allSignals := by revert sig; decide

/-- What a passed walk check says of a run of the table from a starting point. -/
theorem walksOk_run {t : Table} {admits : Excursion → Signal → Bool} {ok : Direction → Direction → Bool} {d : Turn}
    {starts : List WalkPoint} (h : Table.walksOk t admits ok d starts = true) {p : WalkPoint} (hp : p ∈ starts) (sigs : List Signal)
    (ha : Excursion.admitsAll admits p.2 sigs = true) :
    List.Forall₂ (fun dir full => ok dir full = true) (Table.run t p.1 sigs).1 (p.2.fullPaths d sigs) := by
  simp only [Table.walksOk, Bool.and_eq_true, List.all_eq_true, List.contains_iff_mem] at h
  obtain ⟨hs, hc⟩ := h
  replace hp := hs p hp
  generalize Table.walkPoints t admits 64 starts starts = points at hc hp
  induction sigs generalizing p with
  | nil => exact .nil
  | cons sig sigs ih =>
    simp only [Excursion.admitsAll, Bool.and_eq_true] at ha
    have hcell := hc p hp sig (mem_allSignals sig)
    rw [ha.1] at hcell
    cases hx : Table.cell t p.1 sig with
    | none => simp [hx] at hcell
    | some c =>
      simp only [hx, Bool.not_true, Bool.false_or, Bool.and_eq_true, List.contains_iff_mem] at hcell
      simp only [Table.run, hx, Excursion.fullPaths]
      exact .cons hcell.2 (ih (p := (c.2, p.2.next sig)) ha.2 hcell.1)

/-- R146 B4 and B5 for a table that passes: from state 1 at 00 and from state 0, an emission is that of a full path. -/
theorem emitsOnlyAtFullPaths_run {t : Table} {d : Turn} (h : Table.emitsOnlyAtFullPaths t d = true) {p : WalkPoint}
    (hp : p = (1, .rest) ∨ p = (0, .lost)) (sigs : List Signal) :
    List.Forall₂ (fun dir full => dir = none ∨ dir = full) (Table.run t p.1 sigs).1 (p.2.fullPaths d sigs) := by
  have hall : ∀ (x : Excursion) (sigs : List Signal), Excursion.admitsAll (fun _ _ => true) x sigs = true := by
    intro x sigs
    induction sigs generalizing x with
    | nil => rfl
    | cons sig sigs ih => exact ih _
  exact (walksOk_run h (by simpa using hp) sigs (hall _ _)).imp fun _ _ h => by simpa using h

/-- R146 B1 to B3 and B5 for a table that passes: from state 1 at 00, on single-line steps and repeats, it emits exactly what the full paths give. -/
theorem emitsAtEveryFullPath_run {t : Table} {d : Turn} (h : Table.emitsAtEveryFullPath t d = true) (sigs : List Signal)
    (ha : Excursion.admitsAll Excursion.steady .rest sigs = true) : (Table.run t 1 sigs).1 = Excursion.fullPaths d .rest sigs := by
  have := walksOk_run h (p := (1, .rest)) (by simp) sigs ha
  exact List.forall₂_eq_eq_eq ▸ this.imp fun _ _ h => by simpa using h

/-- R146 and R16 for a table that passes: from the lost state, once a sample of 00 has come, the table emits on single-line steps and repeats exactly what
the full paths give. -/
theorem resynchronizes_run {t : Table} {d : Turn} (hr : Table.resynchronizes t = true) (h : Table.emitsAtEveryFullPath t d = true)
    (sigs : List Signal) (ha : Excursion.admitsAll Excursion.steady .rest sigs = true) :
    (Table.run t 0 (0 :: sigs)).1 = none :: Excursion.fullPaths d .rest sigs := by
  have hc : Table.cell t 0 0 = some (none, 1) := by simpa [Table.resynchronizes] using hr
  rw [Table.run, hc]
  exact congrArg _ (emitsAtEveryFullPath_run h sigs ha)

/-- A run from a starting point stays within the points of a passed walk check. -/
theorem walksOk_mem {t : Table} {admits : Excursion → Signal → Bool} {ok : Direction → Direction → Bool} {d : Turn}
    {starts : List WalkPoint} (h : Table.walksOk t admits ok d starts = true) {p : WalkPoint} (hp : p ∈ starts) (sigs : List Signal)
    (ha : Excursion.admitsAll admits p.2 sigs = true) :
    ((Table.run t p.1 sigs).2, sigs.foldl Excursion.next p.2) ∈ Table.walkPoints t admits 64 starts starts := by
  simp only [Table.walksOk, Bool.and_eq_true, List.all_eq_true, List.contains_iff_mem] at h
  obtain ⟨hs, hc⟩ := h
  replace hp := hs p hp
  generalize Table.walkPoints t admits 64 starts starts = points at hc hp
  induction sigs generalizing p with
  | nil => exact hp
  | cons sig sigs ih =>
    simp only [Excursion.admitsAll, Bool.and_eq_true] at ha
    have hcell := hc p hp sig (mem_allSignals sig)
    rw [ha.1] at hcell
    cases hx : Table.cell t p.1 sig with
    | none => simp [hx] at hcell
    | some c =>
      simp only [hx, Bool.not_true, Bool.false_or, Bool.and_eq_true, List.contains_iff_mem] at hcell
      simp only [Table.run, hx, List.foldl_cons]
      exact ih (p := (c.2, p.2.next sig)) ha.2 hcell.1

/-- R146 and R16 for a table that passes: after steady samples from state 1 at 00, a jump of both lines leads silently to the lost state. -/
theorem jumpsGetLost_run {t : Table} {d : Turn} (hj : Table.jumpsGetLost t = true) (h : Table.emitsAtEveryFullPath t d = true)
    (sigs : List Signal) (ha : Excursion.admitsAll Excursion.steady .rest sigs = true) (sig : Signal)
    (hs : (sigs.foldl Excursion.next .rest).steady sig = false) : Table.cell t (Table.run t 1 sigs).2 sig = some (none, 0) := by
  have hm := walksOk_mem h (p := (1, .rest)) (by simp) sigs ha
  simp only [Table.jumpsGetLost, List.all_eq_true] at hj
  simpa [hs] using hj _ hm sig (mem_allSignals sig)

end Sys2Proof.Machine
end

