-- ==== Sys2Proof/Tests/Slice0.lean ====
section
/-! SUPPORT. Tests. Expected values come from 95_test_vectors.md (its section is named at each), under that file's test configuration, or from the
layouts of 30_encoding.md and notes/assumptions/2.md. `witness_<Name>` meets the hypotheses of the obligation <Name>, clause by clause. -/

namespace Sys2Proof.Tests

open Sys2Proof.Machine

/-! ### The test configuration and states -/

/-- The test configuration of 95_test_vectors.md, with two tasks. -/
def cfg : Config where
  profiles := #v[.a, .a, .b, .b]
  encLineMap := #v[true, true, true, true]
  profileAAt11Next := 4
  profileALostOn00 := 0
  profileBTable := tableB
  primaryDepth := 10
  diagDepth := 5
  numTasks := 2
  numPages := 3
  numSubmodeKinds := 2
  uiSendPolicy := .nonBlocking
  xferTimeout := 1
  channels := { pot := 1, dispCmd := 2, dispData := 3, dispStatus := 4 }
  pwmPeriod := 1000
  audioRateHz := 40000
  toneClk := 1000000
  toneDivisors := [1, 8]
  toneCmpMax := 65535
  toneStartPhase := false
  prioOrder := .audioAboveEncoder

/-- The state after reset under the test configuration, the present line being the agent's. -/
def at_ (a : Agent) : State :=
  { State.afterReset cfg (namedResetDraws cfg) with offer := { agent := a, late := false, order := 0 } }

/-- Before RESET, the present line being the agent's. -/
def cold (a : Agent) : State := { at_ a with booted := false }

/-- Task 0's turn, every task idle. -/
def idle0 : State := at_ (.task 0)

/-- A task at micro-step `k` of `i`. -/
def ctl (i : Instr) (k : Nat) : TaskCtl := { op := some i, step := k, locals := Locals.empty, result := .none }

/-- Task 0's turn, at micro-step `k` of `i`; `late` cuts its wait short. -/
def busy (i : Instr) (k : Nat) (late : Bool := false) : State :=
  { idle0 with task := [ctl i k, TaskCtl.idle], offer := { agent := .task 0, late := late, order := 0 } }

/-- Task 0 takes up `i` from idle. -/
theorem start_at {s : State} (i : Instr) (hr : Running s) (ha : s.offer.agent = .task 0) (h : s.task[0]? = some TaskCtl.idle) :
    AtStep s 0 i 0 (TaskCtl.idle.start i) :=
  ⟨⟨hr, ha⟩, _, h, .inl ⟨rfl, rfl, rfl⟩⟩

/-- Task 0 is at a micro-step of `i`. -/
theorem mid_at {s : State} (i : Instr) (k : Nat) (hr : Running s) (ha : s.offer.agent = .task 0) (h : s.task[0]? = some (ctl i k)) :
    AtStep s 0 i k (ctl i k) :=
  ⟨⟨hr, ha⟩, _, h, .inr ⟨rfl, rfl, rfl⟩⟩

/-- The outcome is a next state of which `p` holds. -/
def next (o : Out) (p : State → Bool) : Bool :=
  match o with
  | .next s => p s
  | _ => false

/-- The outcome is this refusal. -/
def refused (o : Out) (r : Refusal) : Bool :=
  match o with
  | .refused r' => decide (r' = r)
  | _ => false

/-- Task 0's result. -/
def result0 (s : State) : Option Result := (s.task[0]?).map TaskCtl.result

/-- Task 0 is idle. -/
def idleNow (s : State) : Bool := (s.task[0]?).any fun c => c.op.isNone

/-! ### WellFormed -/

theorem test_wf_cfg : cfg.channels.distinct = true ∧ profileBTableOk cfg.profileBTable = true := by decide +kernel

/-- The default Profile B table with one cell changed. -/
def changedB (st sig : Nat) (c : Cell) : Table := tableB.modify st fun row => row.set sig c

/-- R146: a jump 00, 11, 10, 00 (B5), a repeated 00, a first 00 in the lost state, and 01, 01, 00 (B4) must not emit. -/
theorem test_wf_tableB_spurious : profileBTableOk (changedB 1 3 (none, 3)) = false ∧ profileBTableOk (changedB 1 0 (some .cw, 1)) = false ∧
    profileBTableOk (changedB 0 0 (some .cw, 1)) = false ∧ profileBTableOk (changedB 2 1 (none, 4)) = false := by decide +kernel
/-- R146, R16: the lost state must not be a sink. -/
theorem test_wf_tableB_sink : profileBTableOk (changedB 0 0 (none, 0)) = false := by decide +kernel
/-- R146, R16: a jump 11, 00 leads to the lost state. -/
theorem test_wf_tableB_jump : profileBTableOk (changedB 3 0 (none, 1)) = false := by decide +kernel
/-- R146 B3: a step back must not lose the way. -/
theorem test_wf_tableB_lost : profileBTableOk (changedB 4 3 (none, 0)) = false ∧ profileBTableOk (changedB 3 1 (none, 0)) = false := by decide +kernel
theorem test_wf_reservedBits : Instr.wf cfg (.busTransceive 0 0x02000000) = false ∧ Instr.wf cfg (.busTransceive 0 0x010F0000) = true := by decide
theorem test_wf_page : Instr.wf cfg (.sendUiEvent (.pageChangeRequest 3)) = false ∧ Instr.wf cfg (.sendUiEvent (.pageChangeRequest 2)) = true := by decide
theorem test_wf_kind : Instr.wf cfg (.sendUiEvent (.generateSubModeRequest 2)) = false ∧ Instr.wf cfg (.sendUiEvent (.generateSubModeRequest 1)) = true := by decide
theorem test_wf_moveDirection : Instr.wf cfg (.sendUiEvent (.encoderMove 0 0 none)) = false := by decide
theorem test_wf_tag : Instr.wf cfg (.sendUiEvent (.unknownTag 3)) = false ∧ Instr.wf cfg (.sendUiEvent (.unknownTag 4)) = true := by decide
theorem test_wf_encIndex : Instr.wf cfg (.readEncDiag 4) = false ∧ Instr.wf cfg (.readEncDiag 3) = true := by decide
theorem test_wf_decodeState : Instr.wf cfg (.qdDecode .a 7 0) = false ∧ Instr.wf cfg (.qdDecode .b 7 0) = true := by decide
theorem test_wf_historyState : Instr.wf cfg (.qdHistory 0 7 0 none 0) = false ∧ Instr.wf cfg (.qdHistory 2 7 0 none 0) = true := by decide
theorem test_wf_bridgeTwice : Instr.wf cfg (.ebBridge [⟨1, 0, .cw⟩, ⟨1, 0, .ccw⟩]) = false := by decide
theorem test_wf_bridgeFive : Instr.wf cfg (.ebBridge [⟨0, 0, .cw⟩, ⟨1, 0, .cw⟩, ⟨2, 0, .cw⟩, ⟨3, 0, .cw⟩, ⟨0, 1, .cw⟩]) = false := by decide
theorem test_wf_hertz : Instr.wf cfg (.toneBestDivisor 0) = false := by decide
theorem test_wf_genericIsNamed : Instr.wf cfg (.buswGeneric true 1 0x0155) = false ∧ Instr.wf cfg (.buswGeneric true 4 0x0155) = true := by decide

/-! ### Decoding: the words of 95_test_vectors.md section 1.10, and descriptors written out from R120 and notes/assumptions/2.md -/

theorem test_decode_interrupts :
    decodeDescriptor 0x0300 = .ok (.reset true true) ∧ decodeDescriptor 0x0100 = .ok (.reset true false) ∧
    decodeDescriptor 0x0301 = .ok (.encIsr 3) ∧ decodeDescriptor 0x32019102 = .ok (.audioTick .wrongSource 100 200) ∧
    decodeDescriptor 0x03 = .ok .toneEdge ∧ decodeDescriptor 0x1FF04 = .ok (.busComplete 0x1FF) ∧
    decodeDescriptor 0x05 = .ok .tick := by decide
theorem test_decode_audio :
    decodeDescriptor 0x0310 = .ok (.setMode .toneFrequency) ∧ decodeDescriptor 0x01B811 = .ok (.setFrequency 440) ∧
    decodeDescriptor 0xC812 = .ok (.setVolume 200) := by decide
theorem test_decode_bus :
    decodeDescriptor 0x03E820 = .ok (.busAcquire 1000) ∧
    decodeDescriptor 0x01012C000000000121 = .ok (.busTransceive 1 0x01012C00) ∧
    decodeDescriptor 0x0122 = .ok (.busRelease 1) := by decide
theorem test_decode_events :
    decodeDescriptor 0x8000000260030 = .ok (.sendUiEvent (.encoderMove 2 9 (some .ccw))) ∧
    decodeDescriptor 0x0130 = .ok (.sendUiEvent .periodicTick) ∧
    decodeDescriptor 0x020230 = .ok (.sendUiEvent (.pageChangeRequest 2)) ∧
    decodeDescriptor 0x010330 = .ok (.sendUiEvent (.generateSubModeRequest 1)) ∧
    decodeDescriptor 0x0430 = .ok (.sendUiEvent (.unknownTag 4)) := by decide
theorem test_decode_reads :
    decodeDescriptor 0x31 = .ok .recvUiEvent ∧ decodeDescriptor 0x32 = .ok .recvDiagEvent ∧
    decodeDescriptor 0x33 = .ok .readOverflow ∧ decodeDescriptor 0x34 = .ok .clearOverflow ∧
    decodeDescriptor 0x0335 = .ok (.readEncDiag 3) := by decide
theorem test_decode_functions :
    decodeDescriptor 0x3450 = .ok (.qdDecode .a 2 3) ∧ decodeDescriptor 0x1042951 = .ok (.qdHistory 1 2 1 none 130) ∧
    decodeDescriptor 0x20000000A152 = .ok (.ebBridge [⟨0, 5, .cw⟩]) ∧
    decodeDescriptor 0x01B853 = .ok (.toneBestDivisor 440) := by decide
theorem test_decode_busWords :
    decodeBusWord cfg.channels 0x01010155 = .ok (.buswPotWrite true 0 0x155) ∧
    decodeBusWord cfg.channels 0x01012C00 = .ok (.buswPotRead true 2) ∧
    decodeBusWord cfg.channels 0x01028005 = .ok (.buswDispCmd true 5) ∧
    decodeBusWord cfg.channels 0x010300AB = .ok (.buswDispWrite true 0xAB) ∧
    decodeBusWord cfg.channels 0x01034000 = .ok (.buswDispRead true) ∧
    decodeBusWord cfg.channels 0x0003C000 = .ok (.buswGeneric false 3 0xC000) := by decide
theorem test_decode_refused :
    decodeDescriptor 0x06 = .error (.unknownCode 6) ∧ decodeDescriptor 0x0105 = .error .reservedBits ∧
    decodeDescriptor 0x0302 = .error .reservedValue ∧
    decodeDescriptor 0xC000000260030 = .error .reservedValue ∧ decodeDescriptor 0x52 = .ok (.ebBridge []) ∧
    decodeDescriptor 0x0152 = .error .reservedValue ∧ decodeDescriptor 0x0552 = .error .reservedValue ∧
    decodeBusWord cfg.channels 0x02000000 = .error .reservedWordBits ∧ decodeBusWord cfg.channels 0x00100000 = .error .reservedWordBits := by decide

/-! ### The reset state (95 section 2.9) -/

theorem test_reset_done : next (exec (.reset true true) (cold .environment)) (fun t =>
    decide (t.enc = #v[.zero, .zero, .zero, .zero]) && decide (t.trace = []) && decide (t.halted = none) && t.booted) = true := by decide
theorem test_reset_bothFail : next (exec (.reset false false) (cold .environment)) (fun t =>
    decide (t.halted = some .resourceCreationFailed) && decide (t.trace = [.diagSignal .resourceCreationFailed])) = true := by decide

/-! ### The decoder, its history and the bridge (95 sections 1.1, 2.1 to 2.3) -/

theorem test_qdDecode_a : next (exec (.qdDecode .a 2 3) (at_ .encIsr)) (fun t => decide (t.fnResult = .decoded 4 (some .cw))) = true := by decide
theorem test_qdDecode_b : next (exec (.qdDecode .b 7 0) (at_ .encIsr)) (fun t => decide (t.fnResult = .decoded 1 (some .ccw))) = true := by decide
theorem test_decoder_lost : Table.run (tableA 4 0) 0 [1, 3, 2, 0] = ([none, none, none, some .cw], 1) := by decide
theorem test_decoder_backtrack : Table.run tableB 1 [1, 3, 1, 3, 2, 0] = ([none, none, none, none, none, some .cw], 1) := by decide

/-- Encoder 0 in state 2 at signal 01 since tick 5. -/
def turning : State :=
  { at_ .encIsr with
    enc := #v[{ st := 2, lastChange := 5, hist := pushHist histZero { st := 2, sig := 1, dir := none, dt := 5 } }, .zero, .zero, .zero]
    tick := 20 }

theorem test_qdHistory_pushes : next (exec (.qdHistory 0 4 3 (some .cw) 20) turning) (fun t =>
    decide (t.enc[0].hist[0] = { st := 4, sig := 3, dir := some .cw, dt := 15 }) && decide (t.enc[0].hist[1].sig = 1) &&
    decide (t.enc[0].lastChange = 20)) = true := by decide
theorem test_qdHistory_wraps : next (exec (.qdHistory 0 4 3 none 0x10)
    { turning with enc := #v[{ turning.enc[0] with lastChange := 0xFFFFFFF0 }, .zero, .zero, .zero] }) (fun t =>
    decide (t.enc[0].hist[0].dt = 0x20)) = true := by decide
theorem test_encIsr_sends : next (exec (.encIsr 3) turning) (fun t =>
    decide (t.enc[0].st = 4) && decide (t.qPrimary = [.encoderMove ⟨0, 20, .cw⟩]) && decide (t.qDiag = [⟨0, 20, .cw⟩]) &&
    !t.overflow && decide (t.trace = [])) = true := by decide
theorem test_encIsr_wakes : next (exec (.encIsr 3) { turning with task := [ctl .recvUiEvent 0, TaskCtl.idle] }) (fun t =>
    decide (t.trace = [.yieldRequest])) = true := by decide
theorem test_ebBridge_full : next (exec (.ebBridge [⟨0, 5, .cw⟩])
    { at_ .encIsr with qPrimary := List.replicate 10 .periodicTick }) (fun t =>
    t.overflow && decide (t.qPrimary.length = 10) && decide (t.qDiag = [⟨0, 5, .cw⟩])) = true := by decide
theorem test_ebBridge_two : next (exec (.ebBridge [⟨2, 5, .cw⟩, ⟨0, 5, .cw⟩])
    { at_ .encIsr with qPrimary := List.replicate 9 .periodicTick }) (fun t =>
    t.overflow && decide (t.qPrimary.getLast? = some (.encoderMove ⟨2, 5, .cw⟩)) && decide (t.qDiag.length = 2)) = true := by decide
theorem test_readEncDiag_state : next (exec (.readEncDiag 0) { turning with offer := idle0.offer }) (fun t =>
    (t.task[0]?).any fun c => decide (c.locals.snap.st = 2) && decide (c.step = 1)) = true := by decide
theorem test_readEncDiag_entry : next (exec (.readEncDiag 0) { turning with offer := idle0.offer, task := [ctl (.readEncDiag 0) 1, .idle] }) (fun t =>
    (t.task[0]?).any fun c => decide (c.locals.snap.hist[0].dt = 5) && decide (c.step = 2)) = true := by decide

/-- Task 0's turn, encoder 0 (profile A) in state 7, which no run reaches. -/
def outOfRange : State := { idle0 with enc := #v[{ EncState.zero with st := 7 }, .zero, .zero, .zero] }

theorem test_readEncDiag_illegal : refused (exec (.readEncDiag 0) outOfRange) .illegalEncoderState = true := by decide

/-! ### The bus (95 section 2.4) -/

theorem test_busAcquire_free : next (exec (.busAcquire 0) idle0) (fun t =>
    decide (t.owner = some 0) && decide (result0 t = some (.okTok 0))) = true := by decide
theorem test_busAcquire_again : next (exec (.busAcquire 0) { idle0 with owner := some 0 }) (fun t =>
    decide (t.owner = some 0) && decide (result0 t = some .timeoutError)) = true := by decide
theorem test_busTransceive_starts : next (exec (.busTransceive 0 0x01012C00) { idle0 with owner := some 0 }) (fun t =>
    decide (t.trace = [.busTx 0x01012C00]) && decide (t.xfer = .inFlight) && decide (t.txReg = 0x01012C00)) = true := by decide
theorem test_busTransceive_notOwner : next (exec (.busTransceive 0 0x01012C00) { idle0 with owner := some 1 }) (fun t =>
    decide (t.halted = some .transceiveWithoutOwnership)) = true := by decide
theorem test_busRelease_owner : next (exec (.busRelease 0) { idle0 with owner := some 0, xfer := .stale }) (fun t =>
    decide (t.owner = none) && decide (t.xfer = .stale)) = true := by decide
theorem test_busRelease_free : next (exec (.busRelease 0) idle0) (fun t => decide (t.halted = some .busReleaseFailed)) = true := by decide
theorem test_busComplete_done : next (exec (.busComplete 0x1FF) { at_ .busDev with xfer := .inFlight }) (fun t =>
    decide (t.rxReg = 0x1FF) && decide (t.xfer = .done)) = true := by decide
theorem test_busComplete_stale : next (exec (.busComplete 0x42) { at_ .busDev with xfer := .stale }) (fun t =>
    decide (t.rxReg = 0x42) && decide (t.xfer = .idle)) = true := by decide
theorem test_busw_generic : next (exec (.buswGeneric false 3 0xC000) { idle0 with owner := some 0 }) (fun t =>
    decide (t.trace = [.busTx 0x0003C000])) = true := by decide
theorem test_busw_potWrite : next (exec (.buswPotWrite true 0 0x155) { idle0 with owner := some 0 }) (fun t =>
    decide (t.trace = [.busTx 0x01010155])) = true := by decide
theorem test_busw_potRead : next (exec (.buswPotRead true 2) { idle0 with owner := some 0 }) (fun t =>
    decide (t.trace = [.busTx 0x01012C00])) = true := by decide
theorem test_busw_dispCmd : next (exec (.buswDispCmd true 5) { idle0 with owner := some 0 }) (fun t =>
    decide (t.trace = [.busTx 0x01028005])) = true := by decide
theorem test_busw_dispWrite : next (exec (.buswDispWrite true 0xAB) { idle0 with owner := some 0 }) (fun t =>
    decide (t.trace = [.busTx 0x010300AB])) = true := by decide
theorem test_busw_dispRead : next (exec (.buswDispRead true) { idle0 with owner := some 0 }) (fun t =>
    decide (t.trace = [.busTx 0x01034000])) = true := by decide

/-! ### Audio and tone (95 sections 2.5, 2.6) -/

theorem test_audioTick_passthrough : next (exec (.audioTick .expected 4 5) { at_ .audioIsr with mode := .adcPassthrough }) (fun t =>
    decide (t.trace = [.dacWrite 4, .dutyWrite 1])) = true := by decide
theorem test_audioTick_tone : next (exec (.audioTick .expected 0 0) { at_ .audioIsr with mode := .toneValue, volume := 128 }) (fun t =>
    decide (t.trace = [.dacWrite 1021, .dutyWrite 250])) = true := by decide
theorem test_passthrough_values :
    passthroughDac 8191 = 4095 ∧ passthroughDuty 1000 8191 = 999 ∧ passthroughDuty 4 8190 = 3 ∧ passthroughDuty 1000 8 = 1 := by decide
theorem test_tone_values :
    (toneDac 255 true, toneDuty 1000 255 true) = (4095, 999) ∧ (toneDac 255 false, toneDuty 4 255 false) = (1, 1) ∧
    (toneDac 1 true, toneDuty 1000 1 true) = (2056, 501) ∧ (toneDac 0 false, toneDuty 4 0 false) = (2048, 2) := by decide
theorem test_setMode_same : next (exec (.setMode .off) idle0) (fun t => decide (t.trace = []) && idleNow t) = true := by decide
theorem test_setMode_enable : next (exec (.setMode .toneValue) (busy (.setMode .toneValue) 3)) (fun t =>
    decide (t.trace = [.pwmEnable]) && t.pwmEnabled && idleNow t) = true := by decide
theorem test_setVolume : next (exec (.setVolume 200) idle0) (fun t => decide (t.volume = 200) && idleNow t) = true := by decide
theorem test_setFrequency_same : next (exec (.setFrequency 0) idle0) (fun t => decide (t.trace = []) && idleNow t) = true := by decide
theorem test_setFrequency_start : next (exec (.setFrequency 440) (busy (.setFrequency 440) 2)) (fun t =>
    decide (t.trace = [.timerStart 1 2273]) && decide (t.tone = ⟨440, true, 1, 2273, false⟩)) = true := by decide +kernel
theorem test_toneBestDivisor_clampedLow : bestDivisor cfg 1 = (8, 65535) ∧ bestDivisor cfg 4000000 = (1, 2) := by decide +kernel
theorem test_toneBestDivisor : next (exec (.toneBestDivisor 440) idle0) (fun t => decide (t.fnResult = .divisor 1 2273)) = true := by decide +kernel
theorem test_toneEdge : next (exec .toneEdge { at_ .toneTimer with tone := ⟨440, true, 1, 2273, false⟩ }) (fun t => t.tone.phase) = true := by decide
theorem test_toneEdge_stopped : exec .toneEdge (at_ .toneTimer) = .next (at_ .toneTimer) := rfl

/-! ### Host operations and the tick (95 section 2.7) -/

theorem test_send_ok : next (exec (.sendUiEvent .periodicTick) idle0) (fun t =>
    decide (t.qPrimary = [.periodicTick]) && decide (result0 t = some .sent)) = true := by decide
theorem test_send_unknownTag : next (exec (.sendUiEvent (.unknownTag 4)) idle0) (fun t => decide (t.halted = some .unknownEventTag)) = true := by decide
theorem test_recvUi_holds : next (exec .recvUiEvent idle0) (fun t => !idleNow t) = true := by decide
theorem test_recvUi_takes : next (exec .recvUiEvent { idle0 with qPrimary := [.periodicTick, .pageChangeRequest 1] }) (fun t =>
    decide (t.qPrimary = [.pageChangeRequest 1]) && decide (result0 t = some (.event .periodicTick))) = true := by decide
theorem test_recvDiag_takes : next (exec .recvDiagEvent { idle0 with qDiag := [⟨2, 9, .ccw⟩] }) (fun t =>
    decide (t.qDiag = []) && decide (result0 t = some (.move ⟨2, 9, .ccw⟩))) = true := by decide
theorem test_readOverflow : next (exec .readOverflow { idle0 with overflow := true }) (fun t =>
    t.overflow && decide (result0 t = some (.flag true))) = true := by decide
theorem test_clearOverflow : next (exec .clearOverflow { idle0 with overflow := true }) (fun t => !t.overflow && idleNow t) = true := by decide
theorem test_tick : next (exec .tick { at_ .tickSrc with tick := 41 }) (fun t => decide (t.tick = 42)) = true := by decide
theorem test_tick_wraps : next (exec .tick { at_ .tickSrc with tick := 0xFFFFFFFF }) (fun t => decide (t.tick = 0)) = true := by decide

/-! ### Steps of the schedule -/

theorem test_step_runs : next (step ((at_ .environment).withFetchWord 8 0x05)) (fun t => decide (t.tick = 1) && decide (t.schedule = [])) = true := by decide
theorem test_step_reset : next (step (State.reset.withFetchWord 8 0x00)) (fun t => decide (t.halted = some .resourceCreationFailed)) = true := by decide
theorem test_step_table_tick : decodeTableWord 8 0x05 = some .tick := by decide

/-! ### Witnesses: each obligation's hypotheses are met, clause by clause -/

theorem cfg_wf : cfg.wf = true := by decide +kernel

theorem running (a : Agent) : Running (at_ a) := ⟨rfl, rfl⟩
theorem stepOf (a : Agent) : StepOf (at_ a) a := ⟨running a, rfl⟩

/-- Every task is idle in the reset state, so task 0 may take up anything. -/
theorem idle_at (i : Instr) : AtStep idle0 0 i 0 (TaskCtl.idle.start i) := start_at i (running _) rfl rfl
theorem busy_at (i : Instr) (k : Nat) (late : Bool) : AtStep (busy i k late) 0 i k (ctl i k) := mid_at i k ⟨rfl, rfl⟩ rfl rfl

theorem witness_ResetLeavesTheTable :
    (cold .environment).halted = none ∧ (cold .environment).booted = false ∧ (cold .environment).offer.agent = .environment ∧
    (cold .environment).cfg.wf = true := ⟨rfl, rfl, rfl, cfg_wf⟩
theorem witness_ResetFailureHalts :
    (cold .environment).halted = none ∧ (cold .environment).booted = false ∧ (cold .environment).offer.agent = .environment ∧
    (false && true) = false ∧ (true && false) = false := ⟨rfl, rfl, rfl, rfl, rfl⟩
theorem witness_ResetIsFirstAndOnlyOnce :
    ((cold .tickSrc).booted = false ∧ isReset .tick = false ∧ exec .tick (cold .tickSrc) = .next (cold .tickSrc)) ∧
    StepOf (at_ .environment) .environment := ⟨⟨rfl, rfl, rfl⟩, stepOf _⟩

/-- The reset state under the test configuration meets the invariant. -/
theorem at_inv : Inv (at_ .tickSrc) where
  cfgWf := cfg_wf
  encLegal := by decide
  histLegal := by decide
  primaryBounded := by decide
  diagBounded := by decide
  eventsInRange := by intro ev h; cases h
  tasksCounted := rfl
  ownerIsTask := by intro t h; cases h
  inFlightAwaited := by intro h; cases h
  dutySafe := ⟨by decide, by decide⟩
  toneLegal := ⟨by decide, by decide, by decide⟩

/-- A line of the tick source. -/
def tickLine : Line := { offer := { agent := .tickSrc, late := false, order := 0 }, body := .issue (.descriptor 0x05) }

theorem witness_EveryStepKeepsInvariant : ∃ t,
    Inv { at_ .tickSrc with schedule := [tickLine] } ∧ step { at_ .tickSrc with schedule := [tickLine] } = .next t :=
  ⟨_, { at_inv with dutySafe := (at_inv).dutySafe, toneLegal := (at_inv).toneLegal }, rfl⟩

theorem witness_StepRunsTheDecodedInstruction :
    (idle0.halted = none ∧ tickLine.body = .issue (.descriptor 0x05) ∧ decode cfg.channels (.descriptor 0x05) = .ok .tick) ∧
    ((taskResume 0).body = .resume ∧ (taskResume 0).offer.agent = .task 0 ∧
      (busy .recvUiEvent 0).task[0]? = some (ctl .recvUiEvent 0) ∧ (ctl .recvUiEvent 0).op = some .recvUiEvent) ∧
    (idle0.task[0]? = some TaskCtl.idle ∧ TaskCtl.idle.op = none) :=
  ⟨⟨rfl, rfl, rfl⟩, ⟨rfl, rfl, rfl, rfl⟩, rfl, rfl⟩
theorem witness_DecodeOfEncode : cfg.channels.distinct = true ∧ Instr.wf cfg (.qdHistory 3 7 3 (some .ccw) 0xFFFFFFFF) = true := by decide
theorem witness_EncodeOfDecode :
    decode cfg.channels (.descriptor 0xC812) = .ok (.setVolume 200) ∧ ∀ tag, Instr.setVolume 200 ≠ .sendUiEvent (.unknownTag tag) :=
  ⟨rfl, nofun⟩
theorem witness_UnknownCodeIsRefused :
    idle0.halted = none ∧ (0xFFFF06 : Nat) % 256 ∉ [0x00, 0x01, 0x02, 0x03, 0x04, 0x05, 0x10, 0x11, 0x12, 0x20, 0x21, 0x22, 0x30, 0x31,
      0x32, 0x33, 0x34, 0x35, 0x50, 0x51, 0x52, 0x53] := by decide
theorem witness_WrongContextIsRefused :
    Running (at_ .encIsr) ∧ (ownAgent .tick = some .tickSrc ∧ (at_ .encIsr).offer.agent ≠ .tickSrc) ∧
    (isTaskOp (.busAcquire 0) = true ∧ ∃ hz, Instr.toneBestDivisor 440 = .toneBestDivisor hz) ∧
    ∀ t, (at_ .encIsr).offer.agent ≠ .task t :=
  ⟨running _, ⟨rfl, by decide⟩, ⟨rfl, _, rfl⟩, nofun⟩

theorem witness_QdDecodeAnswersTheCell :
    StepOf (at_ .encIsr) .encIsr ∧ (at_ .encIsr).cfg.wf = true ∧ legalState .a 6 = true ∧ legalState .b 7 = true ∧ legalState .a 7 = false :=
  ⟨stepOf _, cfg_wf, by decide⟩
theorem witness_ProfileBEmitsOncePerFullPath :
    (singleLineWalk 0 [1, 0, 2, 0] = true ∧ 3 ∉ ([1, 0, 2, 0] : List Signal)) ∧ (Table.run tableB 4 [0]).1[0]? = some (some .cw) := by decide
theorem witness_PositionSignalKeepsState :
    (Table.cell (tableA 4 0) 2 3 = some (some .cw, 4) ∧ (4 : StIx) ≠ 0) ∧ (Table.cell (tableA 4 1) 0 0 = some (none, 1) ∧ (1 : StIx) ≠ 0) ∧
    (Table.cell tableB 1 1 = some (none, 2) ∧ (2 : StIx) ≠ 0) := by decide
theorem witness_SwappedLinesSwapDirections : ((0 : StIx) = 0 ∨ (0 : StIx) = 1) ∧ ((1 : StIx) = 0 ∨ (1 : StIx) = 1) := by decide
theorem witness_QdHistoryRecordsChanges :
    StepOf turning .encIsr ∧ legalState turning.cfg.profiles[0] 7 = false ∧ legalState turning.cfg.profiles[0] 4 = true ∧
    (1 : Signal) = turning.enc[0].hist[0].sig ∧ (3 : Signal) ≠ turning.enc[0].hist[0].sig :=
  ⟨⟨⟨rfl, rfl⟩, rfl⟩, by decide⟩
theorem witness_ReadEncDiagReadsOneFieldAStep :
    (AtStep idle0 0 (.readEncDiag 4) 0 (TaskCtl.idle.start (.readEncDiag 4)) ∧ 4 ≤ (4 : U8).toNat) ∧
    (AtStep outOfRange 0 (.readEncDiag 0) 0 (TaskCtl.idle.start (.readEncDiag 0)) ∧ (0 : U8).toNat = (0 : EncIx).val ∧
      legalState outOfRange.cfg.profiles[0] outOfRange.enc[0].st = false) ∧
    (AtStep idle0 0 (.readEncDiag 3) 0 (TaskCtl.idle.start (.readEncDiag 3)) ∧ legalState idle0.cfg.profiles[3] idle0.enc[3].st = true) ∧
    AtStep (busy (.readEncDiag 3) 1) 0 (.readEncDiag 3) 1 (ctl (.readEncDiag 3) 1) ∧
    AtStep (busy (.readEncDiag 3) 10) 0 (.readEncDiag 3) 10 (ctl (.readEncDiag 3) 10) ∧
    AtStep (busy (.readEncDiag 3) 11) 0 (.readEncDiag 3) 11 (ctl (.readEncDiag 3) 11) ∧ (3 : U8).toNat = (3 : EncIx).val :=
  ⟨⟨idle_at _, by decide⟩, ⟨start_at _ ⟨rfl, rfl⟩ rfl rfl, by decide⟩, ⟨idle_at _, by decide⟩, busy_at _ _ _, busy_at _ _ _, busy_at _ _ _,
    by decide⟩

/-- Task 0 idle, with the lines of one whole operation to come. -/
def whole (i : Instr) : State := { idle0 with schedule := wholeLine cfg.channels idle0.offer i }

/-- A whole operation of task 0 is scheduled, and nothing after it. -/
theorem whole_ready (i : Instr) :
    Running (whole i) ∧ idle0.offer.agent = .task 0 ∧ (whole i).task[0]? = some TaskCtl.idle ∧ TaskCtl.idle.op = none ∧
    (whole i).schedule = wholeLine (whole i).cfg.channels idle0.offer i ++ [] :=
  ⟨⟨rfl, rfl⟩, rfl, rfl, rfl, (List.append_nil _).symm⟩

theorem witness_UninterruptedReadEncDiagReturnsTheEncoder :
    (3 : U8).toNat = (3 : EncIx).val ∧ Running (whole (.readEncDiag 3)) ∧ (whole (.readEncDiag 3)).task[0]? = some TaskCtl.idle ∧
    (whole (.readEncDiag 3)).schedule = wholeLine (whole (.readEncDiag 3)).cfg.channels idle0.offer (.readEncDiag 3) ++ [] ∧
    legalState (whole (.readEncDiag 3)).cfg.profiles[3] (whole (.readEncDiag 3)).enc[3].st = true ∧
    legalState { whole (.readEncDiag 0) with enc := outOfRange.enc }.cfg.profiles[0] outOfRange.enc[0].st = false :=
  ⟨rfl, (whole_ready _).1, (whole_ready _).2.2.1, (whole_ready _).2.2.2.2, by decide, by decide⟩

theorem witness_EncIsrSamplesEveryEncoder :
    StepOf turning .encIsr ∧ turning.cfg.wf = true ∧ (∀ i : EncIx, legalState turning.cfg.profiles[i] turning.enc[i].st = true) ∧
    (1 : U8).extractLsb' (2 * (0 : EncIx).val) 2 = turning.enc[0].hist[0].sig ∧
    (3 : U8).extractLsb' (2 * (0 : EncIx).val) 2 ≠ turning.enc[0].hist[0].sig :=
  ⟨⟨⟨rfl, rfl⟩, rfl⟩, cfg_wf, by decide, by decide, by decide⟩
theorem witness_EncIsrSendsItsMoves :
    StepOf { turning with task := [ctl .recvUiEvent 0, TaskCtl.idle] } .encIsr ∧
    (∃ t, exec (.encIsr 3) { turning with task := [ctl .recvUiEvent 0, TaskCtl.idle] } = .next t) ∧
    (turning.qPrimary = [] ∧ 0 < turning.cfg.primaryDepth ∧
      ∃ c ∈ [ctl .recvUiEvent 0, TaskCtl.idle], c.op = some .recvUiEvent ∧ c.step = 0) ∧
    (∃ t, exec (.encIsr 3) turning = .next t) ∧ ¬∃ c ∈ turning.task, c.op = some Instr.recvUiEvent ∧ c.step = 0 :=
  ⟨⟨⟨rfl, rfl⟩, rfl⟩, ⟨_, rfl⟩, ⟨rfl, by decide, by decide⟩, ⟨_, rfl⟩, by decide⟩
theorem witness_MoveOrderIsAnyPermutation :
    ([⟨1, 20, .cw⟩, ⟨0, 20, .cw⟩] : List EncoderMove).Perm
      (encMoves { turning with enc := #v[turning.enc[0], turning.enc[0], .zero, .zero] } 0x0F) ∧
    ([3, 1, 0, 2] : List EncIx).Perm [0, 1, 2, 3] := by decide
theorem witness_EbBridgeFillsTheQueues :
    StepOf (at_ .encIsr) .encIsr ∧ movesWf [⟨0, 5, .cw⟩, ⟨3, 5, .ccw⟩] = true ∧ movesWf [⟨0, 5, .cw⟩, ⟨0, 5, .ccw⟩] = false :=
  ⟨stepOf _, by decide, by decide⟩
theorem witness_OverflowIsSticky :
    (∃ t, exec .clearOverflow { idle0 with overflow := true } = .next t ∧ t.overflow = false) ∧
    ∃ t, exec (.ebBridge [⟨0, 5, .cw⟩]) { at_ .encIsr with qPrimary := List.replicate 10 .periodicTick } = .next t ∧ t.overflow = true :=
  ⟨⟨_, rfl, rfl⟩, _, rfl, by decide⟩
theorem witness_EncodersChangeOnlyInTheirInterrupt :
    ∃ t, exec (.qdHistory 0 4 3 none 20) turning = .next t ∧ isReset (.qdHistory 0 4 3 none 20) = false ∧ t.enc ≠ turning.enc :=
  ⟨_, rfl, rfl, by decide⟩

theorem witness_BusAcquireMicroSteps :
    (AtStep idle0 0 (.busAcquire 0) 0 (TaskCtl.idle.start (.busAcquire 0)) ∧ idle0.owner = none) ∧
    (AtStep { idle0 with owner := some 1 } 0 (.busAcquire 0) 0 (TaskCtl.idle.start (.busAcquire 0)) ∧ some 1 ≠ (none : Option Nat)) ∧
    (AtStep { idle0 with owner := some 0 } 0 (.busAcquire 1) 0 (TaskCtl.idle.start (.busAcquire 1)) ∧ (1 : U32) ≠ 0) ∧
    (AtStep (busy (.busAcquire 1) 1 true) 0 (.busAcquire 1) 1 (ctl (.busAcquire 1) 1) ∧ (busy (.busAcquire 1) 1 true).offer.late = true) ∧
    (AtStep (busy (.busAcquire 1) 1) 0 (.busAcquire 1) 1 (ctl (.busAcquire 1) 1) ∧ (busy (.busAcquire 1) 1).offer.late = false ∧
      (busy (.busAcquire 1) 1).owner = none) ∧
    AtStep { busy (.busAcquire 1) 1 with owner := some 1 } 0 (.busAcquire 1) 1 (ctl (.busAcquire 1) 1) :=
  ⟨⟨idle_at _, rfl⟩, ⟨start_at _ ⟨rfl, rfl⟩ rfl rfl, nofun⟩, ⟨start_at _ ⟨rfl, rfl⟩ rfl rfl, by decide⟩, ⟨busy_at _ _ _, rfl⟩,
    ⟨busy_at _ _ _, rfl, rfl⟩, mid_at _ _ ⟨rfl, rfl⟩ rfl rfl⟩

/-- Task 0 owns the bus. -/
def owning : State := { idle0 with owner := some 0 }

theorem owning_at (i : Instr) : AtStep owning 0 i 0 (TaskCtl.idle.start i) := start_at i ⟨rfl, rfl⟩ rfl rfl

theorem witness_BusTransceiveStart :
    (AtStep owning 0 (.busTransceive 0 0x010FFFFF) 0 (TaskCtl.idle.start (.busTransceive 0 0x010FFFFF)) ∧ owning.owner = some 0 ∧
      (0 : U32).toNat = 0 ∧ (0x010FFFFF : U32) &&& 0xFEF00000 = 0) ∧
    (AtStep owning 0 (.busTransceive 0 0x00100000) 0 (TaskCtl.idle.start (.busTransceive 0 0x00100000)) ∧
      (0x00100000 : U32) &&& 0xFEF00000 ≠ 0) ∧
    (AtStep idle0 0 (.busTransceive 0 0) 0 (TaskCtl.idle.start (.busTransceive 0 0)) ∧ idle0.owner ≠ some 0) ∧
    (AtStep owning 0 (.busTransceive 1 0) 0 (TaskCtl.idle.start (.busTransceive 1 0)) ∧ (1 : U32).toNat ≠ 0) :=
  ⟨⟨owning_at _, rfl, rfl, by decide⟩, ⟨owning_at _, by decide⟩, ⟨idle_at _, nofun⟩, owning_at _, by decide⟩
theorem witness_BusTransceiveWait : ∀ i : Instr,
    (AtStep { busy i 1 with xfer := .done } 0 i 1 (ctl i 1) ∧ (busy i 1).offer.late = false) ∧
    (AtStep { busy i 1 true with xfer := .done } 0 i 1 (ctl i 1) ∧ (busy i 1 true).offer.late = true) ∧
    (AtStep { busy i 1 true with xfer := .inFlight } 0 i 1 (ctl i 1) ∧ Xfer.inFlight ≠ .done) ∧
    AtStep { busy i 1 with xfer := .stale } 0 i 1 (ctl i 1) :=
  fun _ => ⟨⟨mid_at _ _ ⟨rfl, rfl⟩ rfl rfl, rfl⟩, ⟨mid_at _ _ ⟨rfl, rfl⟩ rfl rfl, rfl⟩, ⟨mid_at _ _ ⟨rfl, rfl⟩ rfl rfl, nofun⟩,
    mid_at _ _ ⟨rfl, rfl⟩ rfl rfl⟩
theorem witness_BusTransceiveWait_forms : isTransceive (.busTransceive 0 0) = true ∧ isTransceive (.buswDispRead true) = true := ⟨rfl, rfl⟩
theorem witness_BusReleaseFreesTheBus :
    (AtStep owning 0 (.busRelease 0) 0 (TaskCtl.idle.start (.busRelease 0)) ∧ owning.owner = some 0 ∧ (0 : U32).toNat = 0) ∧
    (AtStep idle0 0 (.busRelease 0) 0 (TaskCtl.idle.start (.busRelease 0)) ∧ idle0.owner ≠ some 0) ∧
    (AtStep owning 0 (.busRelease 1) 0 (TaskCtl.idle.start (.busRelease 1)) ∧ (1 : U32).toNat ≠ 0) :=
  ⟨⟨owning_at _, rfl, rfl⟩, ⟨idle_at _, nofun⟩, owning_at _, by decide⟩
theorem witness_BusCompleteDelivers :
    StepOf { at_ .busDev with xfer := .inFlight } .busDev ∧ StepOf { at_ .busDev with xfer := .stale } .busDev ∧
    StepOf (at_ .busDev) .busDev ∧ (at_ .busDev).xfer = .idle ∧ StepOf { at_ .busDev with xfer := .done } .busDev :=
  ⟨⟨⟨rfl, rfl⟩, rfl⟩, ⟨⟨rfl, rfl⟩, rfl⟩, stepOf _, rfl, ⟨rfl, rfl⟩, rfl⟩
theorem witness_RequestWordFormsSendTheirWords :
    (owning.owner = some 0 ∧ ∀ i : Instr, AtStep owning 0 i 0 (TaskCtl.idle.start i)) ∧
    (idle0.owner ≠ some 0 ∧ ∀ i : Instr, AtStep idle0 0 i 0 (TaskCtl.idle.start i)) := ⟨⟨rfl, owning_at⟩, nofun, idle_at⟩
theorem witness_OwnerChangesOnlyByAcquireAndRelease :
    (∃ u, exec (.busAcquire 0) idle0 = .next u ∧ u.owner ≠ idle0.owner) ∧ ∃ u, exec (.busRelease 0) owning = .next u ∧ u.owner ≠ owning.owner :=
  ⟨⟨_, rfl, nofun⟩, _, rfl, nofun⟩
theorem witness_AbandonedResponseReachesTheNextCaller :
    Running { owning with xfer := .stale } ∧ owning.task[0]? = some TaskCtl.idle ∧ TaskCtl.idle.op = none ∧ owning.owner = some 0 ∧
    (0 : U32).toNat = 0 ∧ (0x010FFFFF : U32) &&& 0xFEF00000 = 0 := ⟨⟨rfl, rfl⟩, rfl, rfl, rfl, rfl, by decide⟩

theorem witness_AudioTickMismatchHaltsAndOffIsSilent :
    StepOf (at_ .audioIsr) .audioIsr ∧ AudioSrc.dupOrLost ≠ .expected ∧ (at_ .audioIsr).mode = .off := ⟨stepOf _, nofun, rfl⟩
theorem witness_AudioTickPassesTheSumThrough :
    StepOf { at_ .audioIsr with mode := .adcPassthrough, cfg := { cfg with pwmPeriod := 4 } } .audioIsr ∧ 4 ≤ (4 : Nat) :=
  ⟨⟨⟨rfl, rfl⟩, rfl⟩, by decide⟩
theorem witness_AudioTickWritesTheToneSample :
    StepOf { at_ .audioIsr with mode := .toneValue } .audioIsr ∧
    StepOf { at_ .audioIsr with mode := .toneFrequency, tone := ⟨440, true, 1, 2273, true⟩, volume := 255 } .audioIsr ∧ 4 ≤ cfg.pwmPeriod :=
  ⟨⟨⟨rfl, rfl⟩, rfl⟩, ⟨⟨rfl, rfl⟩, rfl⟩, by decide⟩
theorem witness_DutyWritesStayInTheOpenInterval :
    4 ≤ cfg.pwmPeriod ∧ ∃ t, exec (.audioTick .expected 0 0) { at_ .audioIsr with mode := .adcPassthrough } = .next t :=
  ⟨by decide, _, rfl⟩

theorem witness_SetModeMicroSteps :
    (AtStep idle0 0 (.setMode .off) 0 (TaskCtl.idle.start (.setMode .off)) ∧ AudioMode.off = idle0.mode) ∧
    (AtStep idle0 0 (.setMode .toneValue) 0 (TaskCtl.idle.start (.setMode .toneValue)) ∧ AudioMode.toneValue ≠ idle0.mode) ∧
    (AtStep (busy (.setMode .toneValue) 1) 0 (.setMode .toneValue) 1 (ctl (.setMode .toneValue) 1) ∧
      (ctl (.setMode .toneValue) 1).locals.nested = 0 ∧ (busy (.setMode .toneValue) 1).tone.freq = 0) ∧
    AtStep { busy (.setMode .off) 1 with tone := ⟨440, true, 1, 2273, false⟩ } 0 (.setMode .off) 1 (ctl (.setMode .off) 1) ∧
    AtStep (busy (.setMode .off) 2) 0 (.setMode .off) 2 (ctl (.setMode .off) 2) ∧
    AtStep (busy (.setMode .off) 3) 0 (.setMode .off) 3 (ctl (.setMode .off) 3) ∧
    AtStep (busy (.setMode .toneValue) 3) 0 (.setMode .toneValue) 3 (ctl (.setMode .toneValue) 3) :=
  ⟨⟨idle_at _, rfl⟩, ⟨idle_at _, nofun⟩, ⟨busy_at _ _ _, rfl, rfl⟩, mid_at _ _ ⟨rfl, rfl⟩ rfl rfl, busy_at _ _ _, busy_at _ _ _, busy_at _ _ _⟩

/-- Task 0 in the nested call of SET_MODE, at its micro-step `n`. -/
def nesting (n : Nat) : TaskCtl := { ctl (.setMode .off) 1 with locals := { nested := n, snap := Snapshot.empty } }

theorem witness_SetModeMicroSteps_nested :
    (AtStep { idle0 with task := [nesting 1, TaskCtl.idle] } 0 (.setMode .off) 1 (nesting 1) ∧ (nesting 1).locals.nested = 1) ∧
    (AtStep { idle0 with task := [nesting 2, TaskCtl.idle] } 0 (.setMode .off) 1 (nesting 2) ∧ (nesting 2).locals.nested = 2) :=
  ⟨⟨⟨⟨⟨rfl, rfl⟩, rfl⟩, _, rfl, .inr ⟨rfl, rfl, rfl⟩⟩, rfl⟩, ⟨⟨⟨rfl, rfl⟩, rfl⟩, _, rfl, .inr ⟨rfl, rfl, rfl⟩⟩, rfl⟩
theorem witness_UninterruptedSetModeZeroesTheTone :
    Running (whole (.setMode .toneValue)) ∧ idle0.offer.agent = .task 0 ∧ (whole (.setMode .toneValue)).task[0]? = some TaskCtl.idle ∧
    AudioMode.toneValue ≠ (whole (.setMode .toneValue)).mode ∧
    (whole (.setMode .toneValue)).schedule = wholeLine (whole (.setMode .toneValue)).cfg.channels idle0.offer (.setMode .toneValue) ++ [] :=
  ⟨(whole_ready _).1, rfl, rfl, nofun, (whole_ready _).2.2.2.2⟩
theorem witness_SetVolumeWritesTheVolume : AtStep idle0 0 (.setVolume 255) 0 (TaskCtl.idle.start (.setVolume 255)) := idle_at _
theorem witness_SetFrequencyMicroSteps :
    (AtStep idle0 0 (.setFrequency 0) 0 (TaskCtl.idle.start (.setFrequency 0)) ∧ (0 : U32) = idle0.tone.freq) ∧
    (AtStep idle0 0 (.setFrequency 1) 0 (TaskCtl.idle.start (.setFrequency 1)) ∧ (1 : U32) ≠ idle0.tone.freq) ∧
    AtStep (busy (.setFrequency 1) 1) 0 (.setFrequency 1) 1 (ctl (.setFrequency 1) 1) ∧
    AtStep (busy (.setFrequency 0) 2) 0 (.setFrequency 0) 2 (ctl (.setFrequency 0) 2) ∧
    (AtStep (busy (.setFrequency 1) 2) 0 (.setFrequency 1) 2 (ctl (.setFrequency 1) 2) ∧ (1 : U32) ≠ 0) :=
  ⟨⟨idle_at _, rfl⟩, ⟨idle_at _, by decide⟩, busy_at _ _ _, busy_at _ _ _, busy_at _ _ _, by decide⟩
theorem witness_UninterruptedSetFrequencyRecordsAndRuns :
    Running (whole (.setFrequency 440)) ∧ idle0.offer.agent = .task 0 ∧ (whole (.setFrequency 440)).task[0]? = some TaskCtl.idle ∧
    (440 : U32) ≠ (whole (.setFrequency 440)).tone.freq ∧
    (whole (.setFrequency 440)).schedule = wholeLine (whole (.setFrequency 440)).cfg.channels idle0.offer (.setFrequency 440) ++ [] :=
  ⟨(whole_ready _).1, rfl, rfl, by decide, (whole_ready _).2.2.2.2⟩
theorem witness_BestDivisorIsTheExhaustiveBest :
    cfg.wf = true ∧ 1 ≤ (1 : Nat) ∧ bestDivisor cfg 1 = (8, 65535) ∧ (8 : Nat) ∈ cfg.toneDivisors ∧ 2 ≤ cfg.toneCmpMax :=
  ⟨cfg_wf, by decide, test_toneBestDivisor_clampedLow.1, by decide, by decide⟩
theorem witness_ToneBestDivisorAnswersThePair :
    StepOf idle0 (.task 0) ∧ 0 < idle0.task.length ∧ (1 : U32) ≠ 0 := ⟨stepOf _, by decide, by decide⟩
theorem witness_ToneEdgeTogglesARunningTimer :
    (StepOf { at_ .toneTimer with tone := ⟨440, true, 1, 2273, false⟩ } .toneTimer) ∧
    (StepOf (at_ .toneTimer) .toneTimer ∧ (at_ .toneTimer).tone.running = false) := ⟨⟨⟨rfl, rfl⟩, rfl⟩, stepOf _, rfl⟩

theorem witness_SendUiEventOutcomes :
    (∀ arg, AtStep idle0 0 (.sendUiEvent arg) 0 (TaskCtl.idle.start (.sendUiEvent arg))) ∧ 3 < (4 : U8).toNat ∧ (3 : U8).toNat ≤ 3 ∧
    idle0.cfg.numPages ≤ (3 : U32).toNat ∧ (2 : U32).toNat < idle0.cfg.numPages ∧ idle0.cfg.numSubmodeKinds ≤ (2 : U32).toNat ∧
    (1 : U32).toNat < idle0.cfg.numSubmodeKinds ∧ idle0.qPrimary.length < idle0.cfg.primaryDepth :=
  ⟨fun _ => idle_at _, by decide⟩

/-- The primary queue is full, under a send policy. -/
def fullUnder (p : UiSendPolicy) : State :=
  { idle0 with qPrimary := List.replicate 10 .periodicTick, cfg := { cfg with uiSendPolicy := p } }

theorem witness_SendUiEventOutcomes_full :
    ∀ p, AtStep (fullUnder p) 0 (.sendUiEvent .periodicTick) 0 (TaskCtl.idle.start (.sendUiEvent .periodicTick)) ∧
      (fullUnder p).cfg.primaryDepth ≤ (fullUnder p).qPrimary.length ∧ (fullUnder p).cfg.uiSendPolicy = p :=
  fun _ => ⟨start_at _ ⟨rfl, rfl⟩ rfl rfl, Nat.le_refl 10, rfl⟩
theorem witness_ReceivesTakeTheHeadOrHold :
    AtStep { idle0 with qPrimary := [.periodicTick] } 0 .recvUiEvent 0 (TaskCtl.idle.start .recvUiEvent) ∧
    (AtStep idle0 0 .recvUiEvent 0 (TaskCtl.idle.start .recvUiEvent) ∧ idle0.qPrimary = []) ∧
    AtStep { idle0 with qDiag := [⟨2, 9, .ccw⟩] } 0 .recvDiagEvent 0 (TaskCtl.idle.start .recvDiagEvent) ∧
    (AtStep idle0 0 .recvDiagEvent 0 (TaskCtl.idle.start .recvDiagEvent) ∧ idle0.qDiag = []) :=
  ⟨start_at _ ⟨rfl, rfl⟩ rfl rfl, ⟨idle_at _, rfl⟩, start_at _ ⟨rfl, rfl⟩ rfl rfl, idle_at _, rfl⟩
theorem witness_OverflowIsReadAndCleared :
    AtStep idle0 0 .readOverflow 0 (TaskCtl.idle.start .readOverflow) ∧ AtStep idle0 0 .clearOverflow 0 (TaskCtl.idle.start .clearOverflow) :=
  ⟨idle_at _, idle_at _⟩
theorem witness_TickCountsModulo : StepOf { at_ .tickSrc with tick := 0xFFFFFFFF } .tickSrc := ⟨⟨rfl, rfl⟩, rfl⟩

theorem witness_HaltedSystemHasNoStep : (haltedWith idle0 .busReleaseFailed).halted = some .busReleaseFailed := rfl
theorem witness_EachFatalCodeHasItsCause :
    (∃ t, exec (.audioTick .wrongSource 0 0) (at_ .audioIsr) = .next t ∧ t.halted = some .audioSourceMismatch) ∧
    (∃ t, exec (.sendUiEvent (.unknownTag 255)) idle0 = .next t ∧ t.halted = some .unknownEventTag) ∧
    (∃ t, exec (.reset false true) (cold .environment) = .next t ∧ t.halted = some .resourceCreationFailed) ∧
    (∃ t, exec (.busRelease 0) idle0 = .next t ∧ t.halted = some .busReleaseFailed) ∧
    (∃ t, exec (.busTransceive 0 0) idle0 = .next t ∧ t.halted = some .transceiveWithoutOwnership) ∧
    ∃ t, exec (.reset true false) (cold .environment) = .next t ∧ t.halted = some .startupBusUnavailable :=
  ⟨⟨_, rfl, rfl⟩, ⟨_, rfl, rfl⟩, ⟨_, rfl, rfl⟩, ⟨_, rfl, rfl⟩, ⟨_, rfl, rfl⟩, _, rfl, rfl⟩
theorem witness_FatalHaltWritesNothingElse :
    (∃ t, exec (.busRelease 0) idle0 = .next t ∧ isReset (.busRelease 0) = false ∧ t.halted = some .busReleaseFailed) ∧
    ∃ t, exec (.audioTick .wrongSource 0 0) (at_ .audioIsr) = .next t ∧ isReset (.audioTick .wrongSource 0 0) = false ∧
      t.halted = some .audioSourceMismatch := ⟨⟨_, rfl, rfl, rfl⟩, _, rfl, rfl, rfl⟩
theorem witness_TraceOnlyGrows : ∃ t, exec (.busTransceive 0 0) owning = .next t ∧ isReset (.busTransceive 0 0) = false := ⟨_, rfl, rfl⟩
theorem witness_ConfigurationNeverChanges : ∃ t, step { at_ .tickSrc with schedule := [tickLine] } = .next t := ⟨_, rfl⟩
theorem witness_OnlyItsWritersChangeAField :
    (∃ t, exec (.setVolume 1) idle0 = .next t ∧ t.volume ≠ idle0.volume) ∧
    (∃ t, exec .tick (at_ .tickSrc) = .next t ∧ t.tick ≠ (at_ .tickSrc).tick) ∧
    (∃ t, exec (.setMode .toneValue) (busy (.setMode .toneValue) 2) = .next t ∧ t.mode ≠ .off) ∧
    (∃ t, exec (.setMode .toneValue) (busy (.setMode .toneValue) 3) = .next t ∧ t.pwmEnabled ≠ false) ∧
    (∃ t, exec (.audioTick .expected 8 8) { at_ .audioIsr with mode := .adcPassthrough } = .next t ∧ t.dacOut ≠ 0) ∧
    (∃ t, exec .toneEdge { at_ .toneTimer with tone := ⟨440, true, 1, 2273, false⟩ } = .next t ∧ t.tone.phase ≠ false) ∧
    (∃ t, exec (.busComplete 5) { at_ .busDev with xfer := .inFlight } = .next t ∧ t.rxReg ≠ 0 ∧ t.xfer ≠ .inFlight) ∧
    (∃ t, exec (.busTransceive 0 5) owning = .next t ∧ t.txReg ≠ 0) :=
  ⟨⟨_, rfl, by decide⟩, ⟨_, rfl, by decide⟩, ⟨_, rfl, by decide⟩, ⟨_, rfl, by decide⟩, ⟨_, rfl, by decide⟩, ⟨_, rfl, by decide⟩,
    ⟨_, rfl, by decide, by decide⟩, _, rfl, by decide⟩
theorem witness_OnlyItsWritersChangeAField_tone :
    ∃ t, exec (.setFrequency 440) (busy (.setFrequency 440) 2) = .next t ∧ t.tone.freq ≠ 0 ∧ t.tone.running ≠ false ∧ t.tone.cmp ≠ 2 :=
  ⟨_, rfl, by decide +kernel, by decide +kernel, by decide +kernel⟩
theorem witness_OnlyItsWritersChangeAField_queues :
    (∃ t, exec (.ebBridge [⟨0, 5, .cw⟩]) (at_ .encIsr) = .next t ∧ t.qPrimary ≠ [] ∧ t.qDiag ≠ []) ∧
    (∃ t, exec (.encIsr 3) turning = .next t ∧ t.enc ≠ turning.enc) ∧
    (∃ t, exec .clearOverflow { idle0 with overflow := true } = .next t ∧ t.overflow ≠ true) ∧
    (∃ t, exec (.busAcquire 0) idle0 = .next t ∧ t.owner ≠ none ∧ t.task ≠ idle0.task) ∧
    (∃ t, exec (.busRelease 0) idle0 = .next t ∧ t.trace ≠ []) :=
  ⟨⟨_, rfl, by decide, by decide⟩, ⟨_, rfl, by decide⟩, ⟨_, rfl, by decide⟩, ⟨_, rfl, by decide, by decide⟩, _, rfl, by decide⟩
theorem witness_FunctionAnswerIsUnobservable : ∃ t, exec (.qdDecode .a 2 3) (at_ .encIsr) = .next t := ⟨_, rfl⟩

theorem witness_OverlappingSetModeLeavesTheCarrierOff :
    Running { idle0 with mode := .toneFrequency } ∧ (0 : Nat) ≠ 1 ∧ idle0.task[0]? = some TaskCtl.idle ∧ idle0.task[1]? = some TaskCtl.idle ∧
    TaskCtl.idle.op = none ∧ idle0.tone.freq = 0 := ⟨⟨rfl, rfl⟩, by decide, rfl, rfl, rfl, rfl⟩
theorem witness_OverlappingSetFrequencyLeavesTheTimerRunning :
    Running { idle0 with tone := ⟨1000, true, 1, 1000, false⟩ } ∧ (0 : Nat) ≠ 1 ∧ idle0.task[0]? = some TaskCtl.idle ∧
    idle0.task[1]? = some TaskCtl.idle ∧ TaskCtl.idle.op = none ∧ (440 : U32) ≠ 0 ∧ (1000 : U32) ≠ 440 ∧ (1000 : U32) ≠ 0 :=
  ⟨⟨rfl, rfl⟩, by decide, rfl, rfl, rfl, by decide, by decide, by decide⟩
theorem witness_PseudoOperationsKeepTheirProtocol : cfg.channels.distinct = true := by decide

/-! ### Weak fairness (R213) -/

/-- Task 0 waits for the bus, its (expire) is taken, and ticks follow for ever. -/
def fairLines : Nat → Line
  | 0 => { offer := { agent := .task 0, late := true, order := 0 }, body := .resume }
  | _ + 1 => tickLine

/-- The task is back, and `n` ticks have passed. -/
def fairAfter (n : Nat) : State :=
  { idle0 with
    task := [{ op := none, step := 1, locals := Locals.empty, result := .timeoutError }, TaskCtl.idle]
    owner := some 1, tick := BitVec.ofNat 32 n
    offer := if n = 0 then { agent := .task 0, late := true, order := 0 } else tickLine.offer }

/-- The states of that execution. -/
def fairStates : Nat → State
  | 0 => { busy (.busAcquire 5) 1 with owner := some 1 }
  | n + 1 => fairAfter n

/-- There is a weakly fair execution in which a task waits on the bus. -/
theorem witness_weaklyFair : BusWaiting (fairStates 0) 0 ∧ Execution fairLines fairStates ∧ WeaklyFair fairLines fairStates := by
  refine ⟨⟨⟨rfl, rfl⟩, _, rfl, by decide⟩, fun n => ?_, fun t n h => ?_⟩
  · match n with
    | 0 => rfl
    | n + 1 =>
      have hs : step { fairAfter n with schedule := [tickLine] } =
        .next { fairAfter n with tick := (fairAfter n).tick + 1, offer := tickLine.offer } := rfl
      show step { fairAfter n with schedule := [tickLine] } = .next (fairAfter (n + 1))
      rw [hs]
      simp [fairAfter, BitVec.ofNat_add]
  · obtain ⟨-, c, hc, hb⟩ := h (n + 1) (Nat.le_succ n)
    have hop : c.op = none := by
      match t with
      | 0 => cases hc; rfl
      | 1 => cases hc; rfl
      | t + 2 => cases hc
    rcases (inBusWait_iff hb).2 with ⟨ms, hi⟩ | ⟨i, hi, -⟩ <;> simp [hop] at hi

end Sys2Proof.Tests
end

section
/-! Scope and run (00_scope.md): once the system has halted nothing has a step (R11), and no step writes the configuration (R7, R33). -/

namespace Sys2Proof.Machine

/-! ### What stops a halted system -/

theorem execReset_of_halted {s : State} {f : FatalCode} (h : s.halted = some f) (createOk busOk : Bool) :
    execReset createOk busOk s = .fault (.halted f) := by
  simp [execReset, h]

/-- R11 for the instructions: RESET looks at the halt itself, and every other meaning, an agent's or a task's, is guarded by `live`. -/
theorem exec_of_halted {s : State} {f : FatalCode} (h : s.halted = some f) (i : Instr) : exec i s = .fault (.halted f) := by
  cases i with
  | reset createOk busOk => exact execReset_of_halted h createOk busOk
  | _ => exact live_of_halted h _

theorem step_of_halted {s : State} {f : FatalCode} (h : s.halted = some f) : step s = .fault (.halted f) := by
  simp [step, h]

/-- Settles O51: the machine's step and every instruction check the halt before anything else. -/
theorem haltedSystemHasNoStep : Obligations.HaltedSystemHasNoStep :=
  fun _ _ h => ⟨step_of_halted h, exec_of_halted h⟩

/-! ### All that one step of the machine can have done -/

/-- A step took the line at the head of the schedule; the line either resumed an idle task, or its instruction ran. -/
theorem step_next {s s' : State} (h : step s = .next s') :
    s.halted = none ∧ ∃ l rest, s.schedule = l :: rest ∧
      ((instrOf s l = .ok none ∧ s' = s.take l rest) ∨
       ∃ i, instrOf s l = .ok (some i) ∧ exec i (s.take l rest) = .next s') := by
  unfold step at h
  split at h
  · cases h
  · cases h
  · rename_i l rest hh hs
    refine ⟨hh, l, rest, hs, ?_⟩
    split at h
    · cases h
    · cases h; exact .inl ⟨‹_›, rfl⟩
    · exact .inr ⟨_, ‹_›, h⟩

/-! ### The configuration under the named updates -/

section
variable (s : State)

@[simp] theorem resetFields_cfg : (resetFields s).cfg = s.cfg := rfl
@[simp] theorem haltedWith_cfg (f : FatalCode) : (haltedWith s f).cfg = s.cfg := rfl
@[simp] theorem returned_cfg (t : Nat) (c : TaskCtl) (r : Result) : (returned s t c r).cfg = s.cfg := rfl
@[simp] theorem movedTo_cfg (t : Nat) (c : TaskCtl) (k : Nat) : (movedTo s t c k).cfg = s.cfg := rfl
@[simp] theorem startTransfer_cfg (word : U32) : (startTransfer word s).cfg = s.cfg := rfl

@[simp] theorem bridge_cfg (ms : List EncoderMove) : (bridge ms s).cfg = s.cfg := by
  obtain ⟨q, d, o, h⟩ := bridge_frame ms s
  rw [h]

@[simp] theorem interruptEncoders_cfg (sigs : U8) : (interruptEncoders s sigs).cfg = s.cfg := by
  obtain ⟨q, d, o, tr, h⟩ := interruptEncoders_frame s sigs
  rw [h]

@[simp] theorem audioSample_cfg (adc0 adc1 : U12) : (audioSample adc0 adc1 s).cfg = s.cfg := by
  obtain ⟨v, d, es, h⟩ := audioSample_frame adc0 adc1 s
  rw [h]

@[simp] theorem freqEffect_cfg (hz : U32) (k : Nat) : (freqEffect hz k s).cfg = s.cfg := by
  obtain ⟨tone, es, n, h⟩ := freqEffect_frame hz k s
  rw [h]

@[simp] theorem applyEnable_cfg (new : AudioMode) : (applyEnable new s).cfg = s.cfg := by
  rw [applyEnable_eq]

end

/-- RESET carries the configuration over (R390); the meanings that write through a named update keep it by that update's lemma, and
the others write fields that are not the configuration. -/
theorem Did.cfg_eq {s s' : State} {i : Instr} (h : Did s i s') : s'.cfg = s.cfg := by
  cases h with
  | resetCreation | resetBus | resetDone => simp
  | interrupt => exact interruptEncoders_cfg s _
  | sample => exact audioSample_cfg s _ _
  | bridged => exact bridge_cfg s _
  | freqStep => simp
  | modeEnable => simp
  | _ => rfl

theorem exec_cfg {s s' : State} {i : Instr} (h : exec i s = .next s') : s'.cfg = s.cfg :=
  (exec_did h).cfg_eq

/-- Settles O55: a step takes a line of the schedule, which keeps the configuration, and then runs an instruction, which keeps it too. -/
theorem configurationNeverChanges : Obligations.ConfigurationNeverChanges := by
  intro s t h
  obtain ⟨-, l, rest, -, ⟨-, rfl⟩ | ⟨i, -, hx⟩⟩ := step_next h
  · exact take_cfg s l rest
  · calc
      t.cfg = (s.take l rest).cfg := exec_cfg hx
      _ = s.cfg := take_cfg s l rest

end Sys2Proof.Machine
end

section
/-! Frames: what the named updates of the interrupt, the bridge, the audio sample, the tone timer and the output enable leave alone, for all the
fields of 10_state.md at once. -/

namespace Sys2Proof.Machine

variable (s : State)

/-- The event bridge writes the two queues and the overflow flag (R182). -/
@[simp] theorem bridge_keeps (ms : List EncoderMove) :
    (bridge ms s).enc = s.enc ∧ (bridge ms s).owner = s.owner ∧ (bridge ms s).xfer = s.xfer ∧ (bridge ms s).txReg = s.txReg ∧
      (bridge ms s).rxReg = s.rxReg ∧ (bridge ms s).mode = s.mode ∧ (bridge ms s).volume = s.volume ∧
      (bridge ms s).toneValue = s.toneValue ∧ (bridge ms s).pwmEnabled = s.pwmEnabled ∧ (bridge ms s).dacOut = s.dacOut ∧
      (bridge ms s).pwmDuty = s.pwmDuty ∧ (bridge ms s).tone = s.tone ∧ (bridge ms s).tick = s.tick ∧ (bridge ms s).task = s.task ∧
      (bridge ms s).trace = s.trace := by
  obtain ⟨q, d, o, h⟩ := bridge_frame ms s
  simp [h]

/-- ENC_ISR writes the encoders, the two queues, the overflow flag and the trace (R180). -/
@[simp] theorem interruptEncoders_keeps (sigs : U8) :
    (interruptEncoders s sigs).owner = s.owner ∧ (interruptEncoders s sigs).xfer = s.xfer ∧
      (interruptEncoders s sigs).txReg = s.txReg ∧ (interruptEncoders s sigs).rxReg = s.rxReg ∧
      (interruptEncoders s sigs).mode = s.mode ∧ (interruptEncoders s sigs).volume = s.volume ∧
      (interruptEncoders s sigs).toneValue = s.toneValue ∧ (interruptEncoders s sigs).pwmEnabled = s.pwmEnabled ∧
      (interruptEncoders s sigs).dacOut = s.dacOut ∧ (interruptEncoders s sigs).pwmDuty = s.pwmDuty ∧
      (interruptEncoders s sigs).tone = s.tone ∧ (interruptEncoders s sigs).tick = s.tick ∧
      (interruptEncoders s sigs).task = s.task := by
  obtain ⟨q, d, o, tr, h⟩ := interruptEncoders_frame s sigs
  simp [h]

/-- The audio sample writes the two outputs and the trace (R252). -/
@[simp] theorem audioSample_keeps (adc0 adc1 : U12) :
    (audioSample adc0 adc1 s).enc = s.enc ∧ (audioSample adc0 adc1 s).qPrimary = s.qPrimary ∧
      (audioSample adc0 adc1 s).qDiag = s.qDiag ∧ (audioSample adc0 adc1 s).overflow = s.overflow ∧
      (audioSample adc0 adc1 s).owner = s.owner ∧ (audioSample adc0 adc1 s).xfer = s.xfer ∧
      (audioSample adc0 adc1 s).txReg = s.txReg ∧ (audioSample adc0 adc1 s).rxReg = s.rxReg ∧
      (audioSample adc0 adc1 s).mode = s.mode ∧ (audioSample adc0 adc1 s).volume = s.volume ∧
      (audioSample adc0 adc1 s).toneValue = s.toneValue ∧ (audioSample adc0 adc1 s).pwmEnabled = s.pwmEnabled ∧
      (audioSample adc0 adc1 s).tone = s.tone ∧ (audioSample adc0 adc1 s).tick = s.tick ∧
      (audioSample adc0 adc1 s).task = s.task := by
  obtain ⟨v, d, es, h⟩ := audioSample_frame adc0 adc1 s
  simp [h]

/-- SET_FREQUENCY writes the timer, the trace and the count of draws (R290 to R292). -/
@[simp] theorem freqEffect_keeps (hz : U32) (k : Nat) :
    (freqEffect hz k s).enc = s.enc ∧ (freqEffect hz k s).qPrimary = s.qPrimary ∧ (freqEffect hz k s).qDiag = s.qDiag ∧
      (freqEffect hz k s).overflow = s.overflow ∧ (freqEffect hz k s).owner = s.owner ∧ (freqEffect hz k s).xfer = s.xfer ∧
      (freqEffect hz k s).txReg = s.txReg ∧ (freqEffect hz k s).rxReg = s.rxReg ∧ (freqEffect hz k s).mode = s.mode ∧
      (freqEffect hz k s).volume = s.volume ∧ (freqEffect hz k s).toneValue = s.toneValue ∧
      (freqEffect hz k s).pwmEnabled = s.pwmEnabled ∧ (freqEffect hz k s).dacOut = s.dacOut ∧
      (freqEffect hz k s).pwmDuty = s.pwmDuty ∧ (freqEffect hz k s).tick = s.tick ∧ (freqEffect hz k s).task = s.task := by
  obtain ⟨tone, es, n, h⟩ := freqEffect_frame hz k s
  simp [h]

/-- SET_MODE's output enable writes that flag and the trace (R263). -/
@[simp] theorem applyEnable_keeps (new : AudioMode) :
    (applyEnable new s).enc = s.enc ∧ (applyEnable new s).qPrimary = s.qPrimary ∧ (applyEnable new s).qDiag = s.qDiag ∧
      (applyEnable new s).overflow = s.overflow ∧ (applyEnable new s).owner = s.owner ∧ (applyEnable new s).xfer = s.xfer ∧
      (applyEnable new s).txReg = s.txReg ∧ (applyEnable new s).rxReg = s.rxReg ∧ (applyEnable new s).mode = s.mode ∧
      (applyEnable new s).volume = s.volume ∧ (applyEnable new s).toneValue = s.toneValue ∧
      (applyEnable new s).dacOut = s.dacOut ∧ (applyEnable new s).pwmDuty = s.pwmDuty ∧ (applyEnable new s).tone = s.tone ∧
      (applyEnable new s).tick = s.tick ∧ (applyEnable new s).task = s.task := by
  simp [applyEnable_eq]

/-- The end of an operation writes the task's control state. -/
@[simp] theorem returned_keeps (t : Nat) (c : TaskCtl) (r : Result) :
    (returned s t c r).enc = s.enc ∧ (returned s t c r).qPrimary = s.qPrimary ∧ (returned s t c r).qDiag = s.qDiag ∧
      (returned s t c r).overflow = s.overflow ∧ (returned s t c r).owner = s.owner ∧ (returned s t c r).xfer = s.xfer ∧
      (returned s t c r).txReg = s.txReg ∧ (returned s t c r).rxReg = s.rxReg ∧ (returned s t c r).mode = s.mode ∧
      (returned s t c r).volume = s.volume ∧ (returned s t c r).toneValue = s.toneValue ∧
      (returned s t c r).pwmEnabled = s.pwmEnabled ∧ (returned s t c r).dacOut = s.dacOut ∧
      (returned s t c r).pwmDuty = s.pwmDuty ∧ (returned s t c r).tone = s.tone ∧ (returned s t c r).tick = s.tick ∧
      (returned s t c r).trace = s.trace := by
  simp [returned]

end Sys2Proof.Machine
end

section
/-! The machine state (10_state.md): the invariant that every step keeps (R74 (i) to (iv) and the ranges of the fields). -/

namespace Sys2Proof.Machine

/-! ### What an admitted configuration gives -/

/-- The constraints of R7 that the invariant leans on: the two free cells of profile A's table, the PWM period, and the tone timer's divisors and
compare limit. -/
theorem cfg_constraints {cfg : Config} (h : cfg.wf = true) :
    (cfg.profileAAt11Next = 4 ∨ cfg.profileAAt11Next = 1) ∧ (cfg.profileALostOn00 = 0 ∨ cfg.profileALostOn00 = 1) ∧
      4 ≤ cfg.pwmPeriod ∧ cfg.toneDivisors ≠ [] ∧ 2 ≤ cfg.toneCmpMax := by
  simp only [Config.wf, Bool.and_eq_true, decide_eq_true_eq, and_assoc, Bool.not_eq_true', List.isEmpty_eq_false_iff] at h
  obtain ⟨-, -, hx, hy, -, -, -, -, -, -, -, -, hp, -, hd, -, hc⟩ := h
  exact ⟨hx, hy, hp, hd, hc⟩

/-! ### Legal encoders (R32, R35) -/

/-- The encoder's state and every state of its history are in the range of its profile. -/
def EncLegal (p : EncoderProfile) (e : EncState) : Prop :=
  legalState p e.st = true ∧ ∀ k : Fin 10, legalState p e.hist[k].st = true

/-- Every index is a state of profile B, whose table has eight rows (R32). -/
theorem legalState_b (st : StIx) : legalState .b st = true := decide_eq_true st.isLt

/-- Profile A's table leads from its seven states to its seven states (R144). -/
theorem tableA_next_legal {x y : StIx} (hx : x = 4 ∨ x = 1) (hy : y = 0 ∨ y = 1) (st : StIx) (sig : Signal) :
    (Table.cell (tableA x y) st sig).all (fun c => legalState .a c.2) = true := by
  rcases hx with rfl | rfl <;> rcases hy with rfl | rfl <;> revert st sig <;> decide

/-- What a profile decodes is a legal state of it (R32, R143). -/
theorem decodeCell_legal {cfg : Config} (hw : cfg.wf = true) {p : EncoderProfile} {st next : StIx} {sig : Signal} {dir : Direction}
    (h : decodeCell cfg p st sig = some (dir, next)) : legalState p next = true := by
  cases p with
  | b => exact legalState_b next
  | a =>
    obtain ⟨hx, hy, -⟩ := cfg_constraints hw
    have hall := tableA_next_legal hx hy st sig
    unfold decodeCell at h
    split at h
    · have hcell : Table.cell (tableA cfg.profileAAt11Next cfg.profileALostOn00) st sig = some (dir, next) := h
      rw [hcell] at hall
      exact hall
    · cases h

theorem pushHist_succ (h : Vector HistEntry 10) (e : HistEntry) (k : Fin 9) : (pushHist h e)[k.val + 1] = h[k.val] := by
  fin_cases k <;> rfl

/-- QD_HISTORY with a legal new state keeps an encoder legal (R150). -/
theorem recordHist_legal {p : EncoderProfile} {e : EncState} (he : EncLegal p e) {st2 : StIx} (h2 : legalState p st2 = true)
    (sig : Signal) (dir : Direction) (now : U32) : EncLegal p (recordHist e st2 sig dir now) := by
  obtain ⟨hst, hhist⟩ := he
  unfold recordHist
  split
  · exact ⟨hst, hhist⟩
  · refine ⟨hst, fun k => ?_⟩
    cases k using Fin.cases with
    | zero => exact h2
    | succ j => exact (congrArg (fun x => legalState p x.st) (pushHist_succ e.hist _ j)).trans (hhist j.castSucc)

/-- The interrupt keeps an encoder legal: the state it decodes is legal, and is what the history records (R180). -/
theorem encAfter_legal {s : State} (hw : s.cfg.wf = true) {i : EncIx} (he : EncLegal s.cfg.profiles[i] s.enc[i]) (sigs : U8) :
    EncLegal s.cfg.profiles[i] (encAfter s sigs i) := by
  unfold encAfter
  split
  · exact he
  · rename_i hc
    have hn := decodeCell_legal hw hc
    have hstored : EncLegal s.cfg.profiles[i] { s.enc[i] with st := _ } := ⟨hn, he.2⟩
    exact recordHist_legal hstored hn _ _ _

theorem sampled_enc (s : State) (sigs : U8) (i : EncIx) : (sampled s sigs).enc[i] = encAfter s sigs i := by
  fin_cases i <;> rfl

/-! ### The outputs and the tone timer (R55, R60) -/

/-- The clamp of R254 and R256 lands in the open interval. -/
theorem clamp_open {period : Nat} (h : 4 ≤ period) (x : Nat) : 1 ≤ clamp x 1 (period - 1) ∧ clamp x 1 (period - 1) < period := by
  unfold clamp
  split
  · omega
  · split <;> omega

theorem clamp_mem {lo hi : Nat} (h : lo ≤ hi) (x : Nat) : lo ≤ clamp x lo hi ∧ clamp x lo hi ≤ hi := by
  unfold clamp
  split
  · omega
  · split <;> omega

/-- A candidate of the search is a divisor of the timer with a compare value of its range (R293). -/
theorem divisorCandidates_legal {clk cmpMax hz : Nat} {divs : List Nat} (hc : 2 ≤ cmpMax) {p : Nat × Nat}
    (h : p ∈ divisorCandidates clk cmpMax divs hz) : p.1 ∈ divs ∧ 2 ≤ p.2 ∧ p.2 ≤ cmpMax := by
  simp only [divisorCandidates, List.mem_flatMap, List.mem_insertionSort, List.mem_cons, List.not_mem_nil, or_false] at h
  obtain ⟨d, hd, rfl | rfl⟩ := h
  · exact ⟨hd, clamp_mem hc _⟩
  · exact ⟨hd, clamp_mem hc _⟩

theorem divisorCandidates_ne_nil (clk cmpMax hz : Nat) {divs : List Nat} (h : divs ≠ []) :
    divisorCandidates clk cmpMax divs hz ≠ [] := by
  obtain ⟨d, hd⟩ := List.exists_mem_of_ne_nil divs h
  exact List.ne_nil_of_mem (List.mem_flatMap.mpr ⟨d, (List.mem_insertionSort _).mpr hd, List.mem_cons_self⟩)

/-- The search over some candidates answers one of them. -/
theorem bestOf_mem (clk hz : Nat) {ps : List (Nat × Nat)} (h : ps ≠ []) : ∃ p ∈ ps, bestOf clk hz ps = some p := by
  induction ps with
  | nil => exact absurd rfl h
  | cons p ps ih =>
    cases ps with
    | nil => exact ⟨p, List.mem_cons_self, rfl⟩
    | cons p' ps =>
      obtain ⟨q, hq, he⟩ := ih (List.cons_ne_nil p' ps)
      rw [bestOf, he]
      dsimp only
      split
      · exact ⟨q, List.mem_cons_of_mem _ hq, rfl⟩
      · exact ⟨p, List.mem_cons_self, rfl⟩

/-- TONE_BEST_DIVISOR answers a pair the timer has (R60, R293). -/
theorem bestDivisor_legal {cfg : Config} (hw : cfg.wf = true) (hz : Nat) :
    (bestDivisor cfg hz).1 ∈ cfg.toneDivisors ∧ 2 ≤ (bestDivisor cfg hz).2 ∧ (bestDivisor cfg hz).2 ≤ cfg.toneCmpMax := by
  obtain ⟨-, -, -, hd, hc⟩ := cfg_constraints hw
  obtain ⟨p, hp, he⟩ := bestOf_mem cfg.toneClk hz (divisorCandidates_ne_nil cfg.toneClk cfg.toneCmpMax hz hd)
  have hb : bestDivisor cfg hz = p := by rw [bestDivisor, he, Option.getD_some]
  exact hb ▸ divisorCandidates_legal hc hp

/-! ### Events in range (R42) -/

/-- The event of an argument is in range: that is what the refusal of R122 leaves. -/
theorem uiEventOf_inRange {cfg : Config} {arg : UiArg} {ev : UiEvent} (h : uiEventOf cfg arg = some ev) : ev.inRange cfg = true := by
  cases arg <;> simp only [uiEventOf, Option.map_eq_some_iff, Option.ite_none_right_eq_some, Option.some.injEq] at h
  case encoderMove => obtain ⟨d, -, rfl⟩ := h; rfl
  case periodicTick => exact h ▸ rfl
  case pageChangeRequest => obtain ⟨hlt, rfl⟩ := h; exact decide_eq_true hlt
  case generateSubModeRequest => obtain ⟨hlt, rfl⟩ := h; exact decide_eq_true hlt
  case unknownTag => cases h

/-! ### The awaited transfer (R74) -/

/-- A task awaits a transfer exactly in micro-step 1 of a transfer's operation (R221). -/
theorem inTransfer_iff {c : TaskCtl} : inTransfer c = true ↔ c.step = 1 ∧ ∃ i, c.op = some i ∧ isTransceive i = true := by
  obtain ⟨op, _, _, _⟩ := c
  cases op with
  | none => simp [inTransfer]
  | some i => cases i <;> simp [inTransfer, isTransceive]

/-- A task that steps in an operation at micro-step `n` awaits a transfer only if the operation is a transfer and `n` is its micro-step 1. -/
theorem AtStep.of_inTransfer {s : State} {t n : Nat} {i : Instr} {c c₀ : TaskCtl} (h : AtStep s t i n c) (hc : s.task[t]? = some c₀)
    (hx : inTransfer c₀ = true) : isTransceive i = true ∧ n = 1 := by
  obtain ⟨-, c₁, hc₁, h⟩ := h
  obtain rfl := Option.some_inj.mp (hc.symm.trans hc₁)
  obtain ⟨hs, j, hj, hx⟩ := inTransfer_iff.mp hx
  rcases h with ⟨ho, -⟩ | ⟨ho, hn, -⟩
  · cases hj.symm.trans ho
  · obtain rfl := Option.some_inj.mp (hj.symm.trans ho)
    exact ⟨hx, hn.symm.trans hs⟩

/-! ### The updates that keep the invariant -/

section
variable {s : State}

theorem Inv.enc (hi : Inv s) (i : EncIx) : EncLegal s.cfg.profiles[i] s.enc[i] := ⟨hi.encLegal i, hi.histLegal i⟩

theorem Inv.withEnc (hi : Inv s) {v : Vector EncState 4} (h : ∀ i : EncIx, EncLegal s.cfg.profiles[i] v[i]) :
    Inv { s with enc := v } :=
  { hi with encLegal := fun i => (h i).1, histLegal := fun i => (h i).2 }

/-- A task's new control state keeps the invariant when it still awaits the transfer in flight that the old one awaited. -/
theorem Inv.setTask (hi : Inv s) {t : Nat} {c : TaskCtl}
    (h : s.xfer = .inFlight → ∀ c₀, s.task[t]? = some c₀ → inTransfer c₀ = true → inTransfer c = true) : Inv (s.setTask t c) :=
  { hi with
    tasksCounted := (List.length_set ..).trans hi.tasksCounted
    inFlightAwaited := fun hx => by
      obtain ⟨c₀, hm, hc₀⟩ := hi.inFlightAwaited hx
      obtain ⟨n, hn, rfl⟩ := List.mem_iff_getElem.mp hm
      by_cases htn : t = n
      · subst htn
        exact ⟨c, List.mem_set hn c, h hx _ (List.getElem?_eq_getElem hn) hc₀⟩
      · exact ⟨s.task[n], List.mem_iff_getElem.mpr ⟨n, by simpa using hn, by simp [htn]⟩, hc₀⟩ }

theorem Inv.halt (hi : Inv s) (f : FatalCode) : Inv (haltedWith s f) := { hi with }

theorem Inv.answer (hi : Inv s) (r : Result) : Inv { s with fnResult := r } := { hi with }

/-- A transfer that has ended or been abandoned has nobody to await it. -/
theorem Inv.endTransfer (hi : Inv s) {x : Xfer} (hx : x ≠ .inFlight) : Inv { s with xfer := x } :=
  { hi with inFlightAwaited := fun h => absurd h hx }

/-- A transfer may start once a task awaits it. -/
theorem Inv.startTransfer (hi : Inv s) (word : U32) (h : ∃ c ∈ s.task, inTransfer c = true) : Inv (startTransfer word s) :=
  { hi with inFlightAwaited := fun _ => h }

/-- One round of the bridge sends each queue an event in range while it has room (R182 to R184). -/
theorem Inv.bridgeOne (hi : Inv s) (m : EncoderMove) : Inv (bridgeOne m s) := by
  rw [bridgeOne_eq]
  refine { hi with primaryBounded := ?_, diagBounded := ?_, eventsInRange := ?_ }
  · have := hi.primaryBounded
    dsimp only
    split <;> simp <;> omega
  · have := hi.diagBounded
    dsimp only
    split <;> simp <;> omega
  · dsimp only
    split
    · simpa [UiEvent.inRange, or_imp, forall_and] using hi.eventsInRange
    · exact hi.eventsInRange

theorem Inv.bridge (hi : Inv s) (ms : List EncoderMove) : Inv (bridge ms s) := by
  induction ms generalizing s with
  | nil => exact hi
  | cons m ms ih => exact ih (hi.bridgeOne m)

/-- ENC_ISR is its sampling, the bridge and perhaps a yield request (R180). -/
theorem Inv.interruptEncoders (hi : Inv s) (sigs : U8) : Inv (interruptEncoders s sigs) := by
  have hs : Inv (sampled s sigs) := hi.withEnc fun i => sampled_enc s sigs i ▸ encAfter_legal hi.cfgWf (hi.enc i) sigs
  have hb := hs.bridge (encMoves s sigs)
  unfold Machine.interruptEncoders
  dsimp only
  split
  · exact { hb with }
  · exact hb

theorem Inv.writeOutputs (hi : Inv s) (dac : Nat) {duty : Nat} (h : 1 ≤ duty ∧ duty < s.cfg.pwmPeriod) :
    Inv (writeOutputs dac duty s) :=
  { hi with dutySafe := h }

/-- Every duty that the audio engine writes is clamped into the open interval (R254, R256, R257). -/
theorem Inv.audioSample (hi : Inv s) (adc0 adc1 : U12) : Inv (audioSample adc0 adc1 s) := by
  obtain ⟨-, -, hp, -⟩ := cfg_constraints hi.cfgWf
  unfold Machine.audioSample
  split
  · exact hi
  · exact hi.writeOutputs _ (clamp_open hp _)
  · exact hi.writeOutputs _ (clamp_open hp _)
  · exact hi.writeOutputs _ (clamp_open hp _)

/-- SET_FREQUENCY writes the timer's pair only when it starts the timer, with the best one (R290 to R292). -/
theorem Inv.freqEffect (hi : Inv s) (hz : U32) (k : Nat) : Inv (freqEffect hz k s) := by
  unfold Machine.freqEffect
  split
  · exact hi
  · exact { hi with }
  · split
    · exact { hi with }
    · exact { hi with toneLegal := bestDivisor_legal hi.cfgWf _ }

theorem Inv.applyEnable (hi : Inv s) (new : AudioMode) : Inv (applyEnable new s) := by
  rw [applyEnable_eq]
  exact { hi with }

/-- The draws of RESET are in the ranges of R390. -/
theorem resetDraws_legal (s : State) (hw : s.cfg.wf = true) :
    (1 ≤ s.resetDraws.pwmDuty ∧ s.resetDraws.pwmDuty < s.cfg.pwmPeriod) ∧
      s.resetDraws.div ∈ s.cfg.toneDivisors ∧ 2 ≤ s.resetDraws.cmp ∧ s.resetDraws.cmp ≤ s.cfg.toneCmpMax := by
  obtain ⟨-, -, hp, hd, hc⟩ := cfg_constraints hw
  have hduty := Nat.mod_lt (s.draw 3) (show 0 < s.cfg.pwmPeriod - 1 by omega)
  have hcmp := Nat.mod_lt (s.draw 5) (show 0 < s.cfg.toneCmpMax - 1 by omega)
  have hdiv := Nat.mod_lt (s.draw 4) (List.length_pos_iff.mpr hd)
  simp only [State.resetDraws, List.getD_eq_getElem _ _ hdiv]
  exact ⟨by omega, List.getElem_mem hdiv, by omega, by omega⟩

theorem encZero_legal (p : EncoderProfile) : EncLegal p EncState.zero := by
  refine ⟨by cases p <;> rfl, fun k => ?_⟩
  fin_cases k <;> cases p <;> rfl

/-- The table of R394 meets the invariant for every admitted configuration. -/
theorem Inv.resetFields (hw : s.cfg.wf = true) : Inv (resetFields s) := by
  obtain ⟨hduty, htone⟩ := resetDraws_legal s hw
  have henc : ∀ i : EncIx, (Machine.resetFields s).enc[i] = EncState.zero := fun i => by fin_cases i <;> rfl
  exact {
    cfgWf := hw
    encLegal := fun i => henc i ▸ (encZero_legal _).1
    histLegal := fun i => henc i ▸ (encZero_legal _).2
    primaryBounded := Nat.zero_le _
    diagBounded := Nat.zero_le _
    eventsInRange := nofun
    tasksCounted := List.length_replicate
    ownerIsTask := nofun
    inFlightAwaited := nofun
    dutySafe := hduty
    toneLegal := htone }

end

/-! ### Every step keeps the invariant -/

section
variable {s s' : State} {i : Instr} {t n : Nat} {c : TaskCtl}

/-- A task that steps in an operation which is no transfer awaits none, so it may take any control state. -/
theorem AtStep.keepsAwaited (h : AtStep s t i n c) (hx : isTransceive i = false) {c₀ c' : TaskCtl} (hc : s.task[t]? = some c₀)
    (hc₀ : inTransfer c₀ = true) : inTransfer c' = true := by
  obtain ⟨htrue, -⟩ := h.of_inTransfer hc hc₀
  exact absurd (hx.symm.trans htrue) (by decide)

theorem isTransceive_of_freqStep {hz : U32} (h : i = .setFrequency hz ∨ (hz = 0 ∧ ∃ m, i = .setMode m)) : isTransceive i = false := by
  obtain rfl | ⟨-, m, rfl⟩ := h <;> rfl

/-- Whatever an instruction did keeps the invariant: its effect on the block does, and so does the control state its task is left in. -/
theorem Did.inv (h : Did s i s') (hi : Inv s) : Inv s' := by
  cases h with
  | asleep | resetAgain | noEdge | noComplete => exact hi
  | resetCreation | resetBus => exact (Inv.resetFields hi.cfgWf).halt _
  | resetDone => exact Inv.resetFields hi.cfgWf
  | interrupt => exact hi.interruptEncoders _
  | sample => exact hi.audioSample _ _
  | mismatch => exact hi.halt _
  | edge | ticked => exact { hi with }
  | decoded | searched => exact hi.answer _
  | complete resp | completeStale resp => exact { hi with inFlightAwaited := nofun }
  | recorded e st2 sig dir now _ hl =>
    have hrec : Inv { s with enc := s.enc.set e (recordHist s.enc[e] st2 sig dir now) } := hi.withEnc fun k => by
      by_cases hk : e = k
      · subst hk
        simpa using recordHist_legal (hi.enc e) hl sig dir now
      · have hne : e.val ≠ k.val := fun h => hk (Fin.ext h)
        simpa [Vector.getElem_set_ne, hne] using hi.enc k
    exact hrec.answer _
  | bridged => exact (hi.bridge _).answer _
  | control i t n c c' hat _ hc hx =>
    refine hi.setTask fun _ c₀ hc₀ hin => ?_
    obtain ⟨htr, hn⟩ := hat.of_inTransfer hc₀ hin
    have hop := hx htr
    have hstep : c'.step = n := by
      rcases hc with h | ⟨-, h⟩
      · cases hop.symm.trans h
      · exact h htr
    exact inTransfer_iff.mpr ⟨hstep.trans hn, i, hop, htr⟩
  | freqStep i hz k t n c c' hat hf =>
    refine (hi.freqEffect hz k).setTask fun _ c₀ hc₀ => hat.keepsAwaited (isTransceive_of_freqStep hf) ?_
    simpa using hc₀
  | modeWrite new t c hat =>
    have hw : Inv { s with mode := new } := { hi with }
    exact hw.setTask fun _ _ => hat.keepsAwaited rfl
  | modeEnable new t n c hat =>
    refine (hi.applyEnable new).setTask fun _ c₀ hc₀ => hat.keepsAwaited rfl ?_
    simpa using hc₀
  | volumeWrite vol t n c hat =>
    have hw : Inv { s with volume := vol } := { hi with }
    exact hw.setTask fun _ _ => hat.keepsAwaited rfl
  | granted ms t n c hat =>
    have hw : Inv { s with owner := some t } :=
      { hi with ownerIsTask := fun _ h => Option.some_inj.mp h ▸ hi.tasksCounted ▸ hat.lt }
    exact hw.setTask fun _ _ => hat.keepsAwaited rfl
  | released tok t n c hat =>
    have hw : Inv { s with owner := none } := { hi with ownerIsTask := nofun }
    exact hw.setTask fun _ _ => hat.keepsAwaited rfl
  | badRelease tok t n c hat | badTag arg t n c hat => exact (hi.setTask fun _ _ => hat.keepsAwaited rfl).halt _
  | transferred i word t c hat htr =>
    have hin : inTransfer { c with step := 1 } = true := inTransfer_iff.mpr ⟨rfl, i, hat.op_eq, htr⟩
    exact (hi.setTask fun _ _ _ _ => hin).startTransfer word ⟨_, List.mem_set hat.lt _, hin⟩
  | badTransfer i t c hat =>
    refine (hi.setTask fun _ c₀ hc₀ hin => ?_).halt _
    obtain ⟨-, h0⟩ := hat.of_inTransfer hc₀ hin
    cases h0
  | transferLate i t n c hat =>
    have hx : (if s.xfer = .done then Xfer.idle else .stale) ≠ .inFlight := by split <;> decide
    exact (hi.endTransfer hx).setTask fun h => absurd h hx
  | transferReady i t n c hat =>
    have hx : Xfer.idle ≠ .inFlight := by decide
    exact (hi.endTransfer hx).setTask fun h => absurd h hx
  | sent arg ev t n c hat he hq =>
    have hw : Inv { s with qPrimary := s.qPrimary ++ [ev] } :=
      { hi with
        primaryBounded := by simpa using hq
        eventsInRange := List.forall_mem_append.mpr ⟨hi.eventsInRange, by simpa using uiEventOf_inRange he⟩ }
    exact hw.setTask fun _ _ => hat.keepsAwaited rfl
  | receivedUi ev q t n c hat hq =>
    have hw : Inv { s with qPrimary := q } :=
      { hi with
        primaryBounded := Nat.le_of_succ_le (by simpa [hq] using hi.primaryBounded)
        eventsInRange := fun e he => hi.eventsInRange e (hq ▸ List.mem_cons_of_mem ev he) }
    exact hw.setTask fun _ _ => hat.keepsAwaited rfl
  | receivedDiag m q t n c hat hq =>
    have hw : Inv { s with qDiag := q } :=
      { hi with diagBounded := Nat.le_of_succ_le (by simpa [hq] using hi.diagBounded) }
    exact hw.setTask fun _ _ => hat.keepsAwaited rfl
  | cleared t n c hat =>
    have hw : Inv { s with overflow := false } := { hi with }
    exact hw.setTask fun _ _ => hat.keepsAwaited rfl

theorem Inv.take (hi : Inv s) (l : Line) (rest : List Line) : Inv (s.take l rest) := { hi with }

/-- Settles O5: a step takes a line of the schedule, which no clause of the invariant reads, and then runs an instruction, which keeps
the invariant. -/
theorem everyStepKeepsInvariant : Obligations.EveryStepKeepsInvariant := by
  intro s t hi h
  obtain ⟨-, l, rest, -, ⟨-, rfl⟩ | ⟨i, -, hx⟩⟩ := step_next h
  · exact hi.take l rest
  · exact (exec_did hx).inv (hi.take l rest)

end

end Sys2Proof.Machine
end

section
/-! The writers of each field (10_state.md): outside RESET a field is as it was unless the step is one of the operations that its rule names. -/

namespace Sys2Proof.Machine

/-! ### The trace, the flag and the timer's pair under the named updates -/

/-- The interrupt's one event is the yield request (R180). -/
theorem interruptEncoders_trace (s : State) (sigs : U8) : ∃ es, (interruptEncoders s sigs).trace = s.trace ++ es := by
  unfold interruptEncoders
  dsimp only
  split
  · exact ⟨[.yieldRequest], by simp [sampled]⟩
  · exact ⟨[], by simp [sampled]⟩

theorem audioSample_trace (s : State) (adc0 adc1 : U12) : ∃ es, (audioSample adc0 adc1 s).trace = s.trace ++ es := by
  obtain ⟨_, _, es, h⟩ := audioSample_frame adc0 adc1 s
  exact ⟨es, by rw [h]⟩

theorem freqEffect_trace (s : State) (hz : U32) (k : Nat) : ∃ es, (freqEffect hz k s).trace = s.trace ++ es := by
  obtain ⟨_, es, _, h⟩ := freqEffect_frame hz k s
  exact ⟨es, by rw [h]⟩

/-- The bridge only ever sets the flag (R183). -/
theorem bridge_overflow_of_set (ms : List EncoderMove) {s : State} (h : s.overflow = true) : (bridge ms s).overflow = true := by
  induction ms generalizing s with
  | nil => exact h
  | cons m ms ih => exact ih (by simp [bridgeOne_eq, h])

theorem interruptEncoders_overflow (s : State) (sigs : U8) :
    (interruptEncoders s sigs).overflow = (bridge (encMoves s sigs) (sampled s sigs)).overflow := by
  unfold interruptEncoders
  dsimp only
  split <;> rfl

/-- The call of SET_FREQUENCY(0) never starts the timer, so it leaves the configured pair alone (R292). -/
theorem freqEffect_zero_pair (k : Nat) (s : State) :
    (freqEffect 0 k s).tone.div = s.tone.div ∧ (freqEffect 0 k s).tone.cmp = s.tone.cmp := by
  unfold freqEffect
  split <;> exact ⟨rfl, rfl⟩

/-! ### One lemma for each field -/

variable {s s' : State} {i : Instr}

theorem setsTone_of_freqStep {hz : U32} (h : i = .setFrequency hz ∨ (hz = 0 ∧ ∃ m, i = .setMode m)) : setsTone i = true := by
  obtain rfl | ⟨-, m, rfl⟩ := h <;> rfl

theorem Did.toneValue_eq (h : Did s i s') (hr : isReset i = false) : s'.toneValue = s.toneValue := by
  cases h with
  | resetCreation | resetBus | resetDone => exact Bool.noConfusion hr
  | interrupt | sample | bridged | freqStep | modeEnable => simp
  | _ => rfl

/-- R32, R34, R35, R37: the encoders are written in a step of their interrupt. -/
theorem Did.enc_writer (h : Did s i s') (hr : isReset i = false) :
    s'.enc = s.enc ∨ (s.offer.agent = .encIsr ∧
      ((∃ sigs, i = .encIsr sigs) ∨ ∃ e st2 sig dir now, i = .qdHistory e st2 sig dir now)) := by
  cases h with
  | interrupt sigs ha => exact .inr ⟨ha.2, .inl ⟨sigs, rfl⟩⟩
  | recorded e st2 sig dir now ha => exact .inr ⟨ha.2, .inr ⟨e, st2, sig, dir, now, rfl⟩⟩
  | resetCreation | resetBus | resetDone => exact Bool.noConfusion hr
  | sample | bridged | freqStep | modeEnable => simp
  | _ => exact .inl rfl

theorem Did.qPrimary_writer (h : Did s i s') (hr : isReset i = false) :
    s'.qPrimary = s.qPrimary ∨
      (∃ sigs, i = .encIsr sigs) ∨ (∃ ms, i = .ebBridge ms) ∨ (∃ arg, i = .sendUiEvent arg) ∨ i = .recvUiEvent := by
  cases h with
  | interrupt sigs => exact .inr (.inl ⟨sigs, rfl⟩)
  | bridged ms => exact .inr (.inr (.inl ⟨ms, rfl⟩))
  | sent arg => exact .inr (.inr (.inr (.inl ⟨arg, rfl⟩)))
  | receivedUi => exact .inr (.inr (.inr (.inr rfl)))
  | resetCreation | resetBus | resetDone => exact Bool.noConfusion hr
  | sample | freqStep | modeEnable => simp
  | _ => exact .inl rfl

theorem Did.qDiag_writer (h : Did s i s') (hr : isReset i = false) :
    s'.qDiag = s.qDiag ∨ (∃ sigs, i = .encIsr sigs) ∨ (∃ ms, i = .ebBridge ms) ∨ i = .recvDiagEvent := by
  cases h with
  | interrupt sigs => exact .inr (.inl ⟨sigs, rfl⟩)
  | bridged ms => exact .inr (.inr (.inl ⟨ms, rfl⟩))
  | receivedDiag => exact .inr (.inr (.inr rfl))
  | resetCreation | resetBus | resetDone => exact Bool.noConfusion hr
  | sample | freqStep | modeEnable => simp
  | _ => exact .inl rfl

/-- R40, R183, R327: the flag is cleared by CLEAR_OVERFLOW, and in a step of the bridge it is only ever set. -/
theorem Did.overflow_writer (h : Did s i s') (hr : isReset i = false) :
    s'.overflow = s.overflow ∨ (i = .clearOverflow ∧ s'.overflow = false) ∨
      (((∃ sigs, i = .encIsr sigs) ∨ ∃ ms, i = .ebBridge ms) ∧ (s.overflow = true → s'.overflow = true)) := by
  cases h with
  | interrupt sigs =>
    refine .inr (.inr ⟨.inl ⟨sigs, rfl⟩, fun hs => ?_⟩)
    exact (interruptEncoders_overflow s sigs).trans (bridge_overflow_of_set _ hs)
  | bridged ms => exact .inr (.inr ⟨.inr ⟨ms, rfl⟩, bridge_overflow_of_set ms⟩)
  | cleared => exact .inr (.inl ⟨rfl, rfl⟩)
  | resetCreation | resetBus | resetDone => exact Bool.noConfusion hr
  | sample | freqStep | modeEnable => simp
  | _ => exact .inl rfl

theorem Did.owner_writer (h : Did s i s') (hr : isReset i = false) :
    s'.owner = s.owner ∨ (∃ ms, i = .busAcquire ms) ∨ ∃ tok, i = .busRelease tok := by
  cases h with
  | granted ms => exact .inr (.inl ⟨ms, rfl⟩)
  | released tok => exact .inr (.inr ⟨tok, rfl⟩)
  | resetCreation | resetBus | resetDone => exact Bool.noConfusion hr
  | interrupt | sample | bridged | freqStep | modeEnable => simp
  | _ => exact .inl rfl

/-- A transfer, in any of its spellings, is an operation of the task context. -/
theorem isTaskOp_of_isTransceive (h : isTransceive i = true) : isTaskOp i = true := by
  cases i with
  | busTransceive | buswGeneric | buswPotWrite | buswPotRead | buswDispCmd | buswDispWrite | buswDispRead => rfl
  | _ => cases h

theorem isTaskOp_of_setsTone (h : setsTone i = true) : isTaskOp i = true := by
  cases i with
  | setFrequency | setMode => rfl
  | _ => cases h

/-- R71: a task operation writes the control state of the task that issues it. -/
theorem Did.task_writer (h : Did s i s') (hr : isReset i = false) :
    s'.task = s.task ∨ (isTaskOp i = true ∧ ∃ n c, s.offer.agent = .task n ∧ s'.task = s.task.set n c) := by
  cases h with
  | resetCreation | resetBus | resetDone => exact Bool.noConfusion hr
  | interrupt | sample | bridged => simp
  | control i t n c c' hat hi => exact .inr ⟨hi, t, _, hat.1.2, rfl⟩
  | freqStep i hz k t n c c' hat hi =>
    exact .inr ⟨isTaskOp_of_setsTone (setsTone_of_freqStep hi), t, c', hat.1.2, by simp⟩
  | modeEnable new t n c hat => exact .inr ⟨rfl, t, _, hat.1.2, by rw [applyEnable_eq]; rfl⟩
  | transferred i word t c hat hi | badTransfer i t c hat hi => exact .inr ⟨isTaskOp_of_isTransceive hi, t, _, hat.1.2, rfl⟩
  | transferLate i t n c hat hi | transferReady i t n c hat hi => exact .inr ⟨isTaskOp_of_isTransceive hi, t, _, hat.1.2, rfl⟩
  | modeWrite new t c hat => exact .inr ⟨rfl, t, _, hat.1.2, rfl⟩
  | volumeWrite x t n c hat | granted x t n c hat | released x t n c hat | badRelease x t n c hat | badTag x t n c hat =>
    exact .inr ⟨rfl, t, _, hat.1.2, rfl⟩
  | sent arg ev t n c hat | receivedUi ev q t n c hat | receivedDiag m q t n c hat => exact .inr ⟨rfl, t, _, hat.1.2, rfl⟩
  | cleared t n c hat => exact .inr ⟨rfl, t, _, hat.1.2, rfl⟩
  | _ => exact .inl rfl

/-- R72: whoever logs, logs at the end. -/
theorem Did.trace_grows (h : Did s i s') (hr : isReset i = false) : ∃ es, s'.trace = s.trace ++ es := by
  cases h with
  | resetCreation | resetBus | resetDone => exact Bool.noConfusion hr
  | interrupt sigs => exact interruptEncoders_trace s sigs
  | sample adc0 adc1 => exact audioSample_trace s adc0 adc1
  | freqStep i hz k => exact freqEffect_trace s hz k
  | modeEnable new => exact ⟨_, by rw [applyEnable_eq]; rfl⟩
  | mismatch | badRelease | badTransfer | badTag | transferred => exact ⟨[_], rfl⟩
  | bridged ms => exact ⟨[], by simp⟩
  | _ => exact ⟨[], (List.append_nil _).symm⟩

theorem Did.trace_writer (h : Did s i s') (hr : isReset i = false) :
    s'.trace = s.trace ∨ (∃ sigs, i = .encIsr sigs) ∨ (∃ src adc0 adc1, i = .audioTick src adc0 adc1) ∨ setsTone i = true ∨
      isTransceive i = true ∨ (∃ arg, i = .sendUiEvent arg) ∨ ∃ tok, i = .busRelease tok := by
  cases h with
  | resetCreation | resetBus | resetDone => exact Bool.noConfusion hr
  | interrupt sigs => exact .inr (.inl ⟨sigs, rfl⟩)
  | sample adc0 adc1 => exact .inr (.inr (.inl ⟨.expected, adc0, adc1, rfl⟩))
  | mismatch src adc0 adc1 => exact .inr (.inr (.inl ⟨src, adc0, adc1, rfl⟩))
  | freqStep i hz k t n c c' hat hi => exact .inr (.inr (.inr (.inl (setsTone_of_freqStep hi))))
  | modeEnable => exact .inr (.inr (.inr (.inl rfl)))
  | transferred i word t c hat hi | badTransfer i t c hat hi => exact .inr (.inr (.inr (.inr (.inl hi))))
  | badTag arg => exact .inr (.inr (.inr (.inr (.inr (.inl ⟨arg, rfl⟩)))))
  | badRelease tok => exact .inr (.inr (.inr (.inr (.inr (.inr ⟨tok, rfl⟩)))))
  | bridged => simp
  | _ => exact .inl rfl

theorem Did.volume_writer (h : Did s i s') (hr : isReset i = false) : s'.volume = s.volume ∨ ∃ vol, i = .setVolume vol := by
  cases h with
  | volumeWrite vol => exact .inr ⟨vol, rfl⟩
  | resetCreation | resetBus | resetDone => exact Bool.noConfusion hr
  | interrupt | sample | bridged | freqStep | modeEnable => simp
  | _ => exact .inl rfl

theorem Did.mode_writer (h : Did s i s') (hr : isReset i = false) : s'.mode = s.mode ∨ i = .setMode s'.mode := by
  cases h with
  | modeWrite => exact .inr rfl
  | resetCreation | resetBus | resetDone => exact Bool.noConfusion hr
  | interrupt | sample | bridged | freqStep | modeEnable => simp
  | _ => exact .inl rfl

theorem Did.pwmEnabled_writer (h : Did s i s') (hr : isReset i = false) : s'.pwmEnabled = s.pwmEnabled ∨ ∃ m, i = .setMode m := by
  cases h with
  | modeEnable new => exact .inr ⟨new, rfl⟩
  | resetCreation | resetBus | resetDone => exact Bool.noConfusion hr
  | interrupt | sample | bridged | freqStep => simp
  | _ => exact .inl rfl

theorem Did.output_writer (h : Did s i s') (hr : isReset i = false) :
    (s'.dacOut = s.dacOut ∧ s'.pwmDuty = s.pwmDuty) ∨ ∃ adc0 adc1, i = .audioTick .expected adc0 adc1 := by
  cases h with
  | sample adc0 adc1 => exact .inr ⟨adc0, adc1, rfl⟩
  | resetCreation | resetBus | resetDone => exact Bool.noConfusion hr
  | interrupt | bridged | freqStep | modeEnable => simp
  | _ => exact .inl ⟨rfl, rfl⟩

/-- R58 to R61: the timer is written by SET_FREQUENCY and the call of it in SET_MODE, and its phase by TONE_EDGE too. -/
theorem Did.tone_writer (h : Did s i s') (hr : isReset i = false) :
    s'.tone = s.tone ∨ setsTone i = true ∨ (i = .toneEdge ∧ s'.tone.freq = s.tone.freq ∧ s'.tone.running = s.tone.running) := by
  cases h with
  | edge => exact .inr (.inr ⟨rfl, rfl, rfl⟩)
  | freqStep i hz k t n c c' hat hi => exact .inr (.inl (setsTone_of_freqStep hi))
  | resetCreation | resetBus | resetDone => exact Bool.noConfusion hr
  | interrupt | sample | bridged => simp
  | modeEnable => exact .inr (.inl rfl)
  | _ => exact .inl rfl

/-- R60: the pair is configured by SET_FREQUENCY alone. -/
theorem Did.pair_writer (h : Did s i s') (hr : isReset i = false) :
    (s'.tone.div = s.tone.div ∧ s'.tone.cmp = s.tone.cmp) ∨ ∃ hz, i = .setFrequency hz := by
  cases h with
  | freqStep i hz k t n c c' hat hi =>
    rcases hi with rfl | ⟨rfl, -⟩
    · exact .inr ⟨hz, rfl⟩
    · exact .inl (freqEffect_zero_pair k s)
  | resetCreation | resetBus | resetDone => exact Bool.noConfusion hr
  | interrupt | sample | bridged | modeEnable => simp
  | _ => exact .inl ⟨rfl, rfl⟩

theorem Did.tick_writer (h : Did s i s') (hr : isReset i = false) : s'.tick = s.tick ∨ i = .tick := by
  cases h with
  | ticked => exact .inr rfl
  | resetCreation | resetBus | resetDone => exact Bool.noConfusion hr
  | interrupt | sample | bridged | freqStep | modeEnable => simp
  | _ => exact .inl rfl

theorem Did.rxReg_writer (h : Did s i s') (hr : isReset i = false) : s'.rxReg = s.rxReg ∨ ∃ resp, i = .busComplete resp := by
  cases h with
  | complete resp | completeStale resp => exact .inr ⟨resp, rfl⟩
  | resetCreation | resetBus | resetDone => exact Bool.noConfusion hr
  | interrupt | sample | bridged | freqStep | modeEnable => simp
  | _ => exact .inl rfl

theorem Did.txReg_writer (h : Did s i s') (hr : isReset i = false) : s'.txReg = s.txReg ∨ isTransceive i = true := by
  cases h with
  | transferred i word t c hat hi => exact .inr hi
  | resetCreation | resetBus | resetDone => exact Bool.noConfusion hr
  | interrupt | sample | bridged | freqStep | modeEnable => simp
  | _ => exact .inl rfl

theorem Did.xfer_writer (h : Did s i s') (hr : isReset i = false) :
    s'.xfer = s.xfer ∨ isTransceive i = true ∨ ∃ resp, i = .busComplete resp := by
  cases h with
  | transferred i word t c hat hi => exact .inr (.inl hi)
  | transferLate i t n c hat hi | transferReady i t n c hat hi => exact .inr (.inl hi)
  | complete resp | completeStale resp => exact .inr (.inr ⟨resp, rfl⟩)
  | resetCreation | resetBus | resetDone => exact Bool.noConfusion hr
  | interrupt | sample | bridged | freqStep | modeEnable => simp
  | _ => exact .inl rfl

/-! ### The statements -/

/-- Settles O25: of the flag's writers, CLEAR_OVERFLOW never sets it and the bridge never clears it. -/
theorem overflowIsSticky : Obligations.OverflowIsSticky := by
  intro i s t h hr
  have hw := (exec_did h).overflow_writer hr
  constructor
  · intro hs ht
    rcases hw with he | ⟨hi, -⟩ | ⟨-, hset⟩
    · cases hs.symm.trans (he.symm.trans ht)
    · exact hi
    · cases (hset hs).symm.trans ht
  · intro hs ht
    rcases hw with he | ⟨-, he⟩ | ⟨hi, -⟩
    · cases hs.symm.trans (he.symm.trans ht)
    · cases he.symm.trans ht
    · exact hi

/-- Settles O26: every writer of the encoders steps as the encoder interrupt. -/
theorem encodersChangeOnlyInTheirInterrupt : Obligations.EncodersChangeOnlyInTheirInterrupt := by
  intro i s t h hr hne
  exact (((exec_did h).enc_writer hr).resolve_left hne).1

/-- Settles O54: an instruction logs nothing, or appends its events. -/
theorem traceOnlyGrows : Obligations.TraceOnlyGrows :=
  fun _ _ _ h hr => (exec_did h).trace_grows hr

/-- Settles O56: for each field, the lemma that names its writers. -/
theorem onlyItsWritersChangeAField : Obligations.OnlyItsWritersChangeAField := by
  intro i s t h hr
  have hd := exec_did h
  refine ⟨hd.toneValue_eq hr, fun hne => ((hd.enc_writer hr).resolve_left hne).2, (hd.qPrimary_writer hr).resolve_left,
    (hd.qDiag_writer hr).resolve_left, fun hne => ?overflow, (hd.owner_writer hr).resolve_left, (hd.task_writer hr).resolve_left,
    (hd.trace_writer hr).resolve_left, (hd.volume_writer hr).resolve_left, (hd.mode_writer hr).resolve_left,
    (hd.pwmEnabled_writer hr).resolve_left, fun hne => ?outputs, fun hne => ?frequency, fun hne => ?pair, fun hne => ?phase,
    (hd.tick_writer hr).resolve_left, (hd.rxReg_writer hr).resolve_left, (hd.txReg_writer hr).resolve_left,
    (hd.xfer_writer hr).resolve_left⟩
  case overflow =>
    rcases (hd.overflow_writer hr).resolve_left hne with ⟨hi, -⟩ | ⟨hi | hi, -⟩
    · exact .inr (.inr hi)
    · exact .inl hi
    · exact .inr (.inl hi)
  case outputs => exact (hd.output_writer hr).resolve_left (not_and_or.mpr hne)
  case frequency =>
    rcases hd.tone_writer hr with he | hi | ⟨-, he⟩
    · exact absurd ⟨congrArg Tone.freq he, congrArg Tone.running he⟩ (not_and_or.mpr hne)
    · exact hi
    · exact absurd he (not_and_or.mpr hne)
  case pair => exact (hd.pair_writer hr).resolve_left (not_and_or.mpr hne)
  case phase =>
    rcases hd.tone_writer hr with he | hi | ⟨hi, -⟩
    · exact absurd (congrArg Tone.phase he) hne
    · exact .inl hi
    · exact .inr hi

end Sys2Proof.Machine
end

section
/-! The model's own answer field (notes/assumptions/6.md): nothing reads it. Two states that differ in it alone step alike. -/

namespace Sys2Proof.Machine

/-- The state with another answer of the last function. -/
def State.withAnswer (s : State) (r : Result) : State := { s with fnResult := r }

section
variable (s : State) (r : Result)

@[simp] theorem withAnswer_qPrimary : (s.withAnswer r).qPrimary = s.qPrimary := rfl
@[simp] theorem withAnswer_qDiag : (s.withAnswer r).qDiag = s.qDiag := rfl
@[simp] theorem withAnswer_xfer : (s.withAnswer r).xfer = s.xfer := rfl
@[simp] theorem withAnswer_mode : (s.withAnswer r).mode = s.mode := rfl
@[simp] theorem withAnswer_task : (s.withAnswer r).task = s.task := rfl
@[simp] theorem withAnswer_halted : (s.withAnswer r).halted = s.halted := rfl
@[simp] theorem withAnswer_cfg : (s.withAnswer r).cfg = s.cfg := rfl
@[simp] theorem withAnswer_offer : (s.withAnswer r).offer = s.offer := rfl

theorem freqNext_withAnswer (hz : U32) (k : Nat) : freqNext hz k (s.withAnswer r) = freqNext hz k s := rfl

end

/-- Whenever the first outcome is a next state, the second is that state but for the answer field. -/
def SameButAnswer (o o' : Out) : Prop := ∀ t, o = .next t → ∃ r, o' = .next (t.withAnswer r)

/-! ### The outcomes a meaning is made of -/

section
variable {s : State} {r : Result}

theorem SameButAnswer.next (t : State) (r : Result) : SameButAnswer (.next t) (.next (t.withAnswer r)) := by
  rintro _ ⟨⟩
  exact ⟨r, rfl⟩

/-- A function that answers overwrites the field, so the old answer leaves no trace. -/
theorem SameButAnswer.refl (o : Out) : SameButAnswer o o := fun t h => ⟨t.fnResult, h⟩

theorem SameButAnswer.fault (f : Fault) (o : Out) : SameButAnswer (.fault f) o :=
  fun _ h => by cases h

theorem SameButAnswer.refused (e : Refusal) (o : Out) : SameButAnswer (.refused e) o :=
  fun _ h => by cases h

theorem SameButAnswer.ite {p : Prop} [Decidable p] {a b a' b' : Out} (ha : SameButAnswer a a') (hb : SameButAnswer b b') :
    SameButAnswer (if p then a else b) (if p then a' else b') := by
  split
  · exact ha
  · exact hb

/-- The premises of a step do not read the answer. -/
theorem live_withAnswer {k k' : Out} (h : SameButAnswer k k') : SameButAnswer (live s k) (live (s.withAnswer r) k') := by
  obtain hh | ⟨c, hh⟩ := Option.eq_none_or_eq_some s.halted
  · simp only [live, hh, withAnswer_halted]
    exact .ite h (.next s r)
  · simp only [live, hh]
    exact .fault _ _

theorem asAgent_withAnswer {a : Agent} {k k' : Out} (h : SameButAnswer k k') :
    SameButAnswer (asAgent a s k) (asAgent a (s.withAnswer r) k') :=
  live_withAnswer (.ite h (.refused _ _))

/-- A task's control flow does not read the answer. -/
theorem asTask_withAnswer {i : Instr} {k : Nat → TaskCtl → State → Out}
    (h : ∀ t c, SameButAnswer (k t c s) (k t c (s.withAnswer r))) : SameButAnswer (asTask i s k) (asTask i (s.withAnswer r) k) := by
  refine live_withAnswer ?_
  rw [withAnswer_offer, withAnswer_task]
  split
  · split
    · exact .refused _ _
    · split
      · exact h _ _
      · exact .ite (h _ _) (.refused _ _)
  · exact .refused _ _

end

/-! ### The named updates carry the answer along -/

section
variable (s : State) (r : Result)

theorem bridgeOne_withAnswer (m : EncoderMove) : bridgeOne m (s.withAnswer r) = (bridgeOne m s).withAnswer r := by
  simp only [bridgeOne_eq]
  rfl

theorem bridge_withAnswer (ms : List EncoderMove) : bridge ms (s.withAnswer r) = (bridge ms s).withAnswer r := by
  induction ms generalizing s with
  | nil => rfl
  | cons m ms ih => rw [bridge, bridgeOne_withAnswer, ih, bridge]

theorem bridgeYield_withAnswer (ms : List EncoderMove) : bridgeYield ms (s.withAnswer r) = bridgeYield ms s := by
  induction ms generalizing s with
  | nil => rfl
  | cons m ms ih => rw [bridgeYield, bridgeOne_withAnswer, ih, bridgeYield]; rfl

theorem interruptEncoders_withAnswer (sigs : U8) : interruptEncoders (s.withAnswer r) sigs = (interruptEncoders s sigs).withAnswer r := by
  have hs : sampled (s.withAnswer r) sigs = (sampled s sigs).withAnswer r := rfl
  have hm : encMoves (s.withAnswer r) sigs = encMoves s sigs := rfl
  simp only [interruptEncoders, hs, hm, bridge_withAnswer, bridgeYield_withAnswer]
  split <;> rfl

theorem audioSample_withAnswer (adc0 adc1 : U12) : audioSample adc0 adc1 (s.withAnswer r) = (audioSample adc0 adc1 s).withAnswer r := by
  unfold audioSample
  rw [withAnswer_mode]
  split <;> rfl

theorem freqEffect_withAnswer (hz : U32) (k : Nat) : freqEffect hz k (s.withAnswer r) = (freqEffect hz k s).withAnswer r := by
  unfold freqEffect
  split
  · rfl
  · rfl
  · split <;> rfl

theorem applyEnable_withAnswer (new : AudioMode) : applyEnable new (s.withAnswer r) = (applyEnable new s).withAnswer r := by
  simp only [applyEnable_eq]
  rfl

end

/-! ### Every instruction goes the same way -/

section
variable (s : State) (r : Result)

theorem transceive_withAnswer (i : Instr) (mine : Nat → Bool) (word : U32) :
    SameButAnswer (transceive i mine word s) (transceive i mine word (s.withAnswer r)) := by
  refine asTask_withAnswer fun t c => ?_
  split
  · exact .ite (.ite (.next _ r) (.refused _ _)) (.next _ r)
  · exact .ite (.next _ r) (.ite (.next _ r) (.next _ r))

theorem execSetFrequency_withAnswer (hz : U32) : SameButAnswer (execSetFrequency hz s) (execSetFrequency hz (s.withAnswer r)) := by
  refine asTask_withAnswer fun t c => ?_
  rw [freqEffect_withAnswer, freqNext_withAnswer]
  split <;> exact .next _ r

theorem execSetMode_withAnswer (mode : AudioMode) : SameButAnswer (execSetMode mode s) (execSetMode mode (s.withAnswer r)) := by
  refine asTask_withAnswer fun t c => ?_
  split
  · exact .ite (.next _ r) (.next _ r)
  · rw [freqEffect_withAnswer, freqNext_withAnswer]
    dsimp only
    split <;> exact .next _ r
  · exact .next _ r
  · rw [applyEnable_withAnswer]
    exact .next _ r

theorem execBusAcquire_withAnswer (ms : U32) : SameButAnswer (execBusAcquire ms s) (execBusAcquire ms (s.withAnswer r)) := by
  refine asTask_withAnswer fun t c => ?_
  split
  · exact .ite (.next _ r) (.ite (.next _ r) (.next _ r))
  · exact .ite (.next _ r) (.ite (.next _ r) (.next _ r))

theorem execSendUiEvent_withAnswer (arg : UiArg) : SameButAnswer (execSendUiEvent arg s) (execSendUiEvent arg (s.withAnswer r)) := by
  refine asTask_withAnswer fun t c => .ite (.next _ r) ?_
  rw [withAnswer_cfg, withAnswer_qPrimary]
  split
  · exact .refused _ _
  · split
    · exact .next _ r
    · split <;> exact .next _ r

theorem execReset_withAnswer (createOk busOk : Bool) :
    SameButAnswer (execReset createOk busOk s) (execReset createOk busOk (s.withAnswer r)) := by
  unfold execReset
  rw [withAnswer_halted]
  split
  · exact .fault _ _
  · exact .ite (.ite (.next s r) (.ite (.refl _) (.ite (.refl _) (.refl _)))) (.refused _ _)

theorem exec_withAnswer (i : Instr) : SameButAnswer (exec i s) (exec i (s.withAnswer r)) := by
  cases i with
  | reset c b => exact execReset_withAnswer s r c b
  | encIsr sigs =>
    refine asAgent_withAnswer (.ite ?_ (.refused _ _))
    rw [interruptEncoders_withAnswer]
    exact .next _ r
  | audioTick src adc0 adc1 =>
    refine asAgent_withAnswer (.ite ?_ (.next _ r))
    rw [audioSample_withAnswer]
    exact .next _ r
  | toneEdge => exact asAgent_withAnswer (.ite (.next _ r) (.next _ r))
  | busComplete resp =>
    refine asAgent_withAnswer ?_
    rw [withAnswer_xfer]
    split <;> exact .next _ r
  | tick => exact asAgent_withAnswer (.next _ r)
  | setMode mode => exact execSetMode_withAnswer s r mode
  | setFrequency hz => exact execSetFrequency_withAnswer s r hz
  | setVolume vol | readOverflow | clearOverflow =>
    dsimp only [exec]
    exact asTask_withAnswer fun _ _ => .next _ r
  | busAcquire ms => exact execBusAcquire_withAnswer s r ms
  | busRelease tok =>
    dsimp only [exec]
    exact asTask_withAnswer fun _ _ => .ite (.next _ r) (.next _ r)
  | sendUiEvent arg => exact execSendUiEvent_withAnswer s r arg
  | recvUiEvent =>
    dsimp only [exec]
    refine asTask_withAnswer fun t c => ?_
    rw [withAnswer_qPrimary]
    split <;> exact .next _ r
  | recvDiagEvent =>
    dsimp only [exec]
    refine asTask_withAnswer fun t c => ?_
    rw [withAnswer_qDiag]
    split <;> exact .next _ r
  | readEncDiag idx =>
    dsimp only [exec]
    refine asTask_withAnswer fun t c => ?_
    by_cases hi : idx.toNat < 4
    · simp only [hi, dite_true]
      exact .ite (.refused _ _) (.ite (.next _ r) (.next _ r))
    · simp only [hi, dite_false]
      exact .refused _ _
  | qdDecode p st sig =>
    refine asAgent_withAnswer ?_
    rw [withAnswer_cfg]
    split
    · exact .refused _ _
    · exact .refl _
  | qdHistory i st2 sig dir now => exact asAgent_withAnswer (.ite (.refl _) (.refused _ _))
  | ebBridge ms =>
    refine asAgent_withAnswer (.ite ?_ (.refused _ _))
    rw [bridge_withAnswer, bridgeYield_withAnswer]
    exact .refl _
  | toneBestDivisor hz =>
    refine live_withAnswer ?_
    rw [withAnswer_offer]
    split
    · exact .ite (.refused _ _) (.ite (.refused _ _) (.refl _))
    · exact .refused _ _
  | busTransceive | buswGeneric | buswPotWrite | buswPotRead | buswDispCmd | buswDispWrite | buswDispRead =>
    dsimp only [exec]
    exact transceive_withAnswer s r _ _ _

end

/-- Settles O57: every meaning is made of premises, conditions and updates that carry the answer along or overwrite it. -/
theorem functionAnswerIsUnobservable : Obligations.FunctionAnswerIsUnobservable :=
  fun i s t r h => exec_withAnswer s r i t h

end Sys2Proof.Machine
end

section
/-! How the line at the head of the schedule is read (R87, R121, R123; the schedule is notes/assumptions/3.md's), and the step it gives. -/

namespace Sys2Proof.Machine

section
variable {s : State} {l : Line} {rest : List Line} {i : Instr}

/-! ### The instruction a line asks for -/

theorem instrOf_of_issue {w : Code} (hb : l.body = .issue w) (hd : decode s.cfg.channels w = .ok i) :
    instrOf s l = .ok (some i) := by
  simp only [instrOf, hb, hd]

theorem instrOf_of_resume {t : Nat} {c : TaskCtl} (hb : l.body = .resume) (ha : l.offer.agent = .task t) (hc : s.task[t]? = some c) :
    instrOf s l = .ok c.op := by
  simp only [instrOf, hb, ha, hc]

/-! ### The step of the line at the head: `step_next` read the other way, for any outcome of the instruction -/

theorem step_of_instrOf_some (hh : s.halted = none) (hs : s.schedule = l :: rest) (hi : instrOf s l = .ok (some i)) :
    step s = exec i (s.take l rest) := by
  simp only [step, hh, hs, hi]

theorem step_of_instrOf_none (hh : s.halted = none) (hs : s.schedule = l :: rest) (hi : instrOf s l = .ok none) :
    step s = .next (s.take l rest) := by
  simp only [step, hh, hs, hi]

end

/-- Settles O6: a written line asks for the decoded instruction, a resuming one for the operation its task has in progress. -/
theorem stepRunsTheDecodedInstruction : Obligations.StepRunsTheDecodedInstruction := by
  intro s l rest hh hs
  refine ⟨fun w i hb hd => step_of_instrOf_some hh hs (instrOf_of_issue hb hd), fun t c hb ha hc => ?_⟩
  have hop : instrOf s l = .ok c.op := instrOf_of_resume hb ha hc
  constructor
  · intro i hi
    exact step_of_instrOf_some hh hs (hop.trans (congrArg _ hi))
  · intro hi
    exact step_of_instrOf_none hh hs (hop.trans (congrArg _ hi))

end Sys2Proof.Machine
end

section
/-! The bus request word (R110 to R118): the number its fields make, the fields it gives back, and the named form it is. -/

namespace Sys2Proof.Machine

/-! ### The fields of a word -/

section
variable (last : Bool) (ch : BitVec 4) (p : U16)

/-- Joining a value to one shifted above it adds the two numbers. -/
theorem shiftLeft_or_toNat {w : Nat} (x y : BitVec w) (k : Nat) (hx : x.toNat * 2 ^ k < 2 ^ w) (hy : y.toNat < 2 ^ k) :
    (x <<< k ||| y).toNat = x.toNat * 2 ^ k + y.toNat := by
  rw [BitVec.toNat_or, BitVec.toNat_shiftLeft, Nat.shiftLeft_eq, Nat.mod_eq_of_lt hx, ← Nat.shiftLeft_eq,
    Nat.shiftLeft_add_eq_or_of_lt hy]

/-- R112: the shifts of a word's fields make a number. -/
theorem assembleWord_toNat :
    (assembleWord last ch p).toNat = last.toNat * 2 ^ 24 + ch.toNat * 2 ^ 16 + p.toNat := by
  have hl := last.toNat_lt
  have hlow : (ch.setWidth 32 <<< 16 ||| p.setWidth 32).toNat = ch.toNat * 2 ^ 16 + p.toNat := by
    rw [shiftLeft_or_toNat] <;> simp <;> omega
  rw [assembleWord, BitVec.or_assoc, shiftLeft_or_toNat, hlow] <;> simp [hlow] <;> omega

theorem wordLast_assembleWord : wordLast (assembleWord last ch p) = last := by
  rw [wordLast, BitVec.getLsbD, Nat.testBit_eq_decide_div_mod_eq, assembleWord_toNat]
  cases last <;> simp <;> omega

theorem wordCh_assembleWord : wordCh (assembleWord last ch p) = ch := by
  apply BitVec.eq_of_toNat_eq
  rw [wordCh, BitVec.extractLsb'_toNat, Nat.shiftRight_eq_div_pow, assembleWord_toNat]
  omega

theorem wordPayload_assembleWord : wordPayload (assembleWord last ch p) = p := by
  apply BitVec.eq_of_toNat_eq
  rw [wordPayload, BitVec.extractLsb'_toNat, Nat.shiftRight_eq_div_pow, assembleWord_toNat]
  omega

/-- R111: no field reaches a reserved bit. -/
theorem reservedClear_assembleWord : reservedClear (assembleWord last ch p) = true :=
  decide_eq_true (Laws.TableMatch.buswGeneric last ch p default)

end

/-- Settles O11: the fields are read off the number that the shifts make. -/
theorem busWordFields : Obligations.BusWordFields :=
  fun last ch p => ⟨wordLast_assembleWord last ch p, wordCh_assembleWord last ch p, wordPayload_assembleWord last ch p,
    assembleWord_toNat last ch p, reservedClear_assembleWord last ch p⟩

/-- The fields of a word are all of it but its reserved bits. -/
theorem assembleWord_fields (w : U32) :
    assembleWord (wordLast w) (wordCh w) (wordPayload w) = w &&& ~~~0xFEF00000#32 := by
  ext i hi
  simp only [assembleWord, wordLast, wordCh, wordPayload]
  interval_cases i <;> simp


/-! ### The payloads of the named forms -/

section
variable (addr : BitVec 4) (value : BitVec 9) (b : U8)

@[simp] theorem potWritePayload_toNat : (potWritePayload addr value).toNat = addr.toNat * 2 ^ 12 + value.toNat := by
  rw [potWritePayload, shiftLeft_or_toNat] <;> simp <;> omega

@[simp] theorem potReadPayload_toNat : (potReadPayload addr).toNat = addr.toNat * 2 ^ 12 + 0x0C00 := by
  rw [potReadPayload, shiftLeft_or_toNat] <;> simp <;> omega

@[simp] theorem dispCmdPayload_toNat : (dispCmdPayload b).toNat = 0x8000 + b.toNat := by
  rw [dispCmdPayload, show 0x8000#16 = 0x80#16 <<< 8 from rfl, shiftLeft_or_toNat] <;> simp <;> omega

@[simp] theorem dispWritePayload_toNat : (dispWritePayload b).toNat = b.toNat := by
  simp [dispWritePayload]; omega

@[simp] theorem dispReadPayload_toNat : dispReadPayload.toNat = 0x4000 := rfl

end

theorem extractLsb'_eq_iff {w : Nat} (x : BitVec w) (k n : Nat) (y : BitVec n) :
    x.extractLsb' k n = y ↔ x.toNat / 2 ^ k % 2 ^ n = y.toNat := by
  rw [← BitVec.toNat_inj, BitVec.extractLsb'_toNat, Nat.shiftRight_eq_div_pow]

section
variable (c : Channels) (ch : BitVec 4) (p : U16)

/-- R113: a potentiometer write's payload is that of its two fields. -/
theorem isPotWrite_iff :
    isPotWrite c ch p = true ↔ ch = c.pot ∧ p = potWritePayload (p.extractLsb' 12 4) (p.extractLsb' 0 9) := by
  simp [isPotWrite, extractLsb'_eq_iff, ← BitVec.toNat_inj (x := p), Nat.shiftRight_eq_div_pow]
  omega

/-- R114. -/
theorem isPotRead_iff : isPotRead c ch p = true ↔ ch = c.pot ∧ p = potReadPayload (p.extractLsb' 12 4) := by
  simp [isPotRead, extractLsb'_eq_iff, ← BitVec.toNat_inj (x := p), Nat.shiftRight_eq_div_pow]
  omega

/-- R115. -/
theorem isDispCmd_iff : isDispCmd c ch p = true ↔ ch = c.dispCmd ∧ p = dispCmdPayload (p.extractLsb' 0 8) := by
  simp [isDispCmd, extractLsb'_eq_iff, ← BitVec.toNat_inj (x := p), Nat.shiftRight_eq_div_pow]
  omega

/-- R116. -/
theorem isDispWrite_iff : isDispWrite c ch p = true ↔ ch = c.dispData ∧ p = dispWritePayload (p.extractLsb' 0 8) := by
  simp [isDispWrite, extractLsb'_eq_iff, ← BitVec.toNat_inj (x := p), Nat.shiftRight_eq_div_pow]
  omega

/-- R117. -/
theorem isDispRead_iff : isDispRead c ch p = true ↔ ch = c.dispData ∧ p = dispReadPayload := by
  simp [isDispRead]

end

/-! ### The named form of a word -/

section
variable (c : Channels) (last : Bool) (addr : BitVec 4) (value : BitVec 9) (b : U8)

@[simp] theorem potWritePayload_addr : (potWritePayload addr value).extractLsb' 12 4 = addr := by
  simp [extractLsb'_eq_iff]; omega

@[simp] theorem potWritePayload_value : (potWritePayload addr value).extractLsb' 0 9 = value := by
  simp [extractLsb'_eq_iff]; omega

@[simp] theorem potReadPayload_addr : (potReadPayload addr).extractLsb' 12 4 = addr := by
  simp [extractLsb'_eq_iff]; omega

@[simp] theorem dispCmdPayload_index : (dispCmdPayload b).extractLsb' 0 8 = b := by
  simp [extractLsb'_eq_iff]; omega

@[simp] theorem dispWritePayload_value : (dispWritePayload b).extractLsb' 0 8 = b := by
  simp [extractLsb'_eq_iff]; omega

/-- The two forms of the potentiometer's channel differ in bits 11 to 9. -/
theorem isPotWrite_potReadPayload (ch : BitVec 4) : isPotWrite c ch (potReadPayload addr) = false := by
  simp [isPotWrite, extractLsb'_eq_iff]; omega

theorem nameBusWord_potWrite : nameBusWord c last c.pot (potWritePayload addr value) = .buswPotWrite last addr value := by
  simp [nameBusWord, isPotWrite_iff]

theorem nameBusWord_potRead : nameBusWord c last c.pot (potReadPayload addr) = .buswPotRead last addr := by
  simp [nameBusWord, isPotWrite_potReadPayload, isPotRead_iff]

theorem nameBusWord_generic {ch : BitVec 4} {p : U16} (h : isNamedForm c ch p = false) :
    nameBusWord c last ch p = .buswGeneric last ch p := by
  simp only [isNamedForm, Bool.or_eq_false_iff] at h
  simp [nameBusWord, h]

/-- The numbers of the channels that have named forms differ (R7). -/
theorem distinct_channels {c : Channels} (h : c.distinct = true) :
    c.dispCmd ≠ c.pot ∧ c.dispData ≠ c.pot ∧ c.dispData ≠ c.dispCmd := by
  simp only [Channels.distinct, decide_eq_true_eq, List.nodup_cons, List.mem_cons, not_or] at h
  obtain ⟨⟨hpc, hpd, -⟩, ⟨hcd, -⟩, -⟩ := h
  exact ⟨Ne.symm hpc, Ne.symm hpd, Ne.symm hcd⟩

variable {c} (h : c.distinct = true)
include h

theorem nameBusWord_dispCmd : nameBusWord c last c.dispCmd (dispCmdPayload b) = .buswDispCmd last b := by
  simp [nameBusWord, isPotWrite, isPotRead, isDispCmd_iff, distinct_channels h]

theorem nameBusWord_dispWrite : nameBusWord c last c.dispData (dispWritePayload b) = .buswDispWrite last b := by
  simp [nameBusWord, isPotWrite, isPotRead, isDispCmd, isDispWrite_iff, distinct_channels h]

theorem nameBusWord_dispRead : nameBusWord c last c.dispData dispReadPayload = .buswDispRead last := by
  simp [nameBusWord, isPotWrite, isPotRead, isDispCmd, isDispWrite, isDispRead, extractLsb'_eq_iff, distinct_channels h]

end

/-! ### Decoding and encoding a word -/

theorem decodeBusWord_assembleWord (c : Channels) (last : Bool) (ch : BitVec 4) (p : U16) :
    decodeBusWord c (assembleWord last ch p) = .ok (nameBusWord c last ch p) := by
  simp [decodeBusWord, reservedClear_assembleWord, wordLast_assembleWord, wordCh_assembleWord, wordPayload_assembleWord]

/-- A named form is written with the payload it was recognized by. -/
theorem encode_nameBusWord (c : Channels) (last : Bool) (ch : BitVec 4) (p : U16) :
    encode c (nameBusWord c last ch p) = .busWord (assembleWord last ch p) := by
  have form {ch₀ : BitVec 4} {q : U16} (h : ch = ch₀ ∧ p = q) :
      Code.busWord (assembleWord last ch₀ q) = .busWord (assembleWord last ch p) := by rw [h.1, h.2]
  unfold nameBusWord
  split
  · exact form ((isPotWrite_iff c ch p).mp ‹_›)
  split
  · exact form ((isPotRead_iff c ch p).mp ‹_›)
  split
  · exact form ((isDispCmd_iff c ch p).mp ‹_›)
  split
  · exact form ((isDispWrite_iff c ch p).mp ‹_›)
  split
  · exact form ((isDispRead_iff c ch p).mp ‹_›)
  · rfl

/-- R111: a word with no reserved bit is made of its fields. -/
theorem assembleWord_of_reservedClear {w : U32} (h : reservedClear w = true) :
    assembleWord (wordLast w) (wordCh w) (wordPayload w) = w := by
  have hmask : w &&& 0xFEF00000#32 = 0#32 := of_decide_eq_true h
  have hsplit : w &&& (0xFEF00000#32 ||| ~~~0xFEF00000#32) = w := by
    rw [show 0xFEF00000#32 ||| ~~~0xFEF00000#32 = BitVec.allOnes 32 from rfl, BitVec.and_allOnes]
  rwa [BitVec.and_or_distrib_left, hmask, BitVec.zero_or, ← assembleWord_fields] at hsplit

theorem encode_of_decodeBusWord {c : Channels} {w : U32} {i : Instr} (h : decodeBusWord c w = .ok i) : encode c i = .busWord w := by
  unfold decodeBusWord at h
  split at h
  · cases h
    rw [encode_nameBusWord, assembleWord_of_reservedClear ‹_›]
  · cases h

/-- Settles O9, by evaluating the decoder. -/
theorem writtenWordsDecode : Obligations.WrittenWordsDecode := by
  unfold Obligations.WrittenWordsDecode
  decide

/-- Settles O60: the words decode as the named forms they were assembled as, and the stages follow R124's text case by case. -/
theorem pseudoOperationsKeepTheirProtocol : Obligations.PseudoOperationsKeepTheirProtocol := by
  refine ⟨fun c addr value index h => ?_, fun c p tok => ⟨rfl, rfl, ?_⟩, fun _ _ _ _ => ⟨rfl, rfl, rfl, fun _ _ => rfl⟩,
    fun _ _ _ => ⟨rfl, rfl, rfl⟩⟩
  · simp [pseudoWords, decodeBusWord_assembleWord, nameBusWord_potWrite, nameBusWord_potRead, nameBusWord_dispCmd true index h,
      nameBusWord_dispRead true h]
  · cases p <;> exact ⟨_, _, rfl, fun _ => rfl⟩

end Sys2Proof.Machine
end

section
/-! The operation descriptors (R102 to R106, R120, R121), packed as notes/assumptions/2.md says: each field and each argument list is read back
from what it is written as, and is written as what it was read from. -/

namespace Sys2Proof.Machine

/-! ### One field -/

theorem bitVec_ofNat_eq {w n : Nat} {x : BitVec w} (h : n % 2 ^ w = x.toNat) : BitVec.ofNat w n = x :=
  BitVec.eq_of_toNat_eq (by rwa [BitVec.toNat_ofNat])

theorem fin_ofNat_eq {k n : Nat} [NeZero k] {x : Fin k} (h : n % k = x.val) : Fin.ofNat k n = x := Fin.ext h

theorem directionCode_lt (d : Direction) : directionCode d < 3 := by
  rcases d with _ | _ | _ <;> decide

theorem directionOf_directionCode (d : Direction) : directionOf (directionCode d) = some d := by
  rcases d with _ | _ | _ <;> rfl

theorem directionCode_of_directionOf {n : Nat} {d : Direction} (h : directionOf n = some d) : directionCode d = n := by
  unfold directionOf at h
  split at h <;> cases h <;> rfl

theorem modeCode_lt (m : AudioMode) : modeCode m < 4 := by cases m <;> decide

theorem modeOf_modeCode (m : AudioMode) : modeOf (modeCode m) = m := by cases m <;> rfl

theorem modeCode_modeOf {n : Nat} (h : n < 4) : modeCode (modeOf n) = n := by
  interval_cases n <;> rfl

theorem srcCode_lt (src : AudioSrc) : srcCode src < 3 := by cases src <;> decide

theorem srcOf_srcCode (src : AudioSrc) : srcOf (srcCode src) = some src := by cases src <;> rfl

theorem srcCode_of_srcOf {n : Nat} {src : AudioSrc} (h : srcOf n = some src) : srcCode src = n := by
  unfold srcOf at h
  split at h <;> cases h <;> rfl

theorem profileCode_lt (p : EncoderProfile) : profileCode p < 2 := by cases p <;> decide

theorem profileOf_profileCode (p : EncoderProfile) : profileOf (profileCode p) = p := by cases p <;> rfl

theorem profileCode_profileOf {n : Nat} (h : n < 2) : profileCode (profileOf n) = n := by
  interval_cases n <;> rfl

/-! ### A move's 36 bits (R41, R102) -/

section
variable (enc : EncIx) (time : U32) (dir : Direction)

theorem encodeMoveFields_lt : encodeMoveFields enc time dir < 2 ^ 36 := by
  have hd := directionCode_lt dir
  simp only [encodeMoveFields]; omega

theorem encodeMoveFields_enc : Fin.ofNat 4 (encodeMoveFields enc time dir) = enc :=
  fin_ofNat_eq (by simp only [encodeMoveFields]; omega)

theorem encodeMoveFields_time : BitVec.ofNat 32 (encodeMoveFields enc time dir / 4) = time :=
  bitVec_ofNat_eq (by simp only [encodeMoveFields]; omega)

theorem moveDirOf_encodeMoveFields : moveDirOf (encodeMoveFields enc time dir) = some dir := by
  have hd := directionCode_lt dir
  have hdir : encodeMoveFields enc time dir / 17179869184 % 4 = directionCode dir := by simp only [encodeMoveFields]; omega
  rw [moveDirOf, hdir, directionOf_directionCode]

end

theorem encodeMoveFields_of_moveDirOf {r : Nat} {dir : Direction} (hr : r < 2 ^ 36) (h : moveDirOf r = some dir) :
    encodeMoveFields (Fin.ofNat 4 r) (BitVec.ofNat 32 (r / 4)) dir = r := by
  have hd := directionCode_of_directionOf h
  simp only [encodeMoveFields, Fin.ofNat, BitVec.toNat_ofNat, hd]
  omega

theorem decodeMove_encodeMove (m : EncoderMove) : decodeMove (encodeMove m) = some m := by
  simp only [decodeMove, encodeMove, moveDirOf_encodeMoveFields, encodeMoveFields_enc, encodeMoveFields_time]

theorem encodeMove_of_decodeMove {r : Nat} {m : EncoderMove} (hr : r < 2 ^ 36) (h : decodeMove r = some m) : encodeMove m = r := by
  unfold decodeMove at h
  split at h
  · cases h
    exact encodeMoveFields_of_moveDirOf hr ‹_›
  · cases h

theorem decodeMoves_encodeMoves (ms : List EncoderMove) : decodeMoves ms.length (encodeMoves ms) = .ok ms := by
  induction ms with
  | nil => rfl
  | cons m ms ih =>
    have hm : encodeMove m < 2 ^ 36 := encodeMoveFields_lt ..
    have hhead : encodeMoves (m :: ms) % 68719476736 = encodeMove m := by simp only [encodeMoves]; omega
    have htail : encodeMoves (m :: ms) / 68719476736 = encodeMoves ms := by simp only [encodeMoves]; omega
    rw [List.length_cons, decodeMoves, hhead, htail, decodeMove_encodeMove, ih]

theorem encodeMoves_of_decodeMoves {n r : Nat} {ms : List EncoderMove} (h : decodeMoves n r = .ok ms) :
    ms.length = n ∧ encodeMoves ms = r := by
  induction n generalizing r ms with
  | zero =>
    unfold decodeMoves at h
    split at h <;> cases h
    exact ⟨rfl, ‹r = 0›.symm⟩
  | succ n ih =>
    unfold decodeMoves at h
    split at h <;> cases h
    rename_i m ms hm hms
    obtain ⟨hlen, htail⟩ := ih hms
    have hhead : encodeMove m = r % 68719476736 := encodeMove_of_decodeMove (by omega) hm
    refine ⟨congrArg (· + 1) hlen, ?_⟩
    rw [encodeMoves, hhead, htail]
    omega

/-! ### The arguments of SEND_UI_EVENT (R104, R105) -/

theorem uiTag_lt (arg : UiArg) : uiTag arg < 256 := by
  cases arg <;> simp only [uiTag] <;> omega

theorem uiArgNumber_lt (arg : UiArg) : uiTag arg + 256 * encodePayload arg < 2 ^ 44 := by
  cases arg with
  | encoderMove enc time dir =>
    have := encodeMoveFields_lt enc time dir
    simp only [uiTag, encodePayload]; omega
  | _ => simp only [uiTag, encodePayload]; omega

theorem decodeUiArg_of_tag {r : Nat} (h : 3 < r % 256) : decodeUiArg r = .ok (.sendUiEvent (.unknownTag (BitVec.ofNat 8 (r % 256)))) := by
  unfold decodeUiArg
  split
  case h_5 => rfl
  all_goals omega

theorem decodeUiArg_encode {cfg : Config} {arg : UiArg} (h : arg.wf cfg = true) :
    decodeUiArg (uiTag arg + 256 * encodePayload arg) = .ok (.sendUiEvent arg) := by
  have ht := uiTag_lt arg
  have htag : (uiTag arg + 256 * encodePayload arg) % 256 = uiTag arg := by omega
  have hpay : (uiTag arg + 256 * encodePayload arg) / 256 = encodePayload arg := by omega
  cases arg with
  | unknownTag tag =>
    have h3 : 3 < tag.toNat := of_decide_eq_true h
    rw [decodeUiArg_of_tag (by rw [htag]; exact h3), htag, uiTag, BitVec.ofNat_toNat, BitVec.setWidth_eq]
  | encoderMove enc time dir =>
    simp only [decodeUiArg, htag, hpay]
    simp only [uiTag, encodePayload, moveDirOf_encodeMoveFields, encodeMoveFields_enc, encodeMoveFields_time]
  | periodicTick => rfl
  | pageChangeRequest page =>
    simp only [decodeUiArg, htag, hpay]
    simp [uiTag, encodePayload]
    omega
  | generateSubModeRequest kind =>
    simp only [decodeUiArg, htag, hpay]
    simp [uiTag, encodePayload]
    omega

/-- What SEND_UI_EVENT's arguments are read as: an unknown tag, or arguments that spell them again. -/
theorem encode_of_decodeUiArg {r : Nat} {i : Instr} (hr : r < 2 ^ 44) (h : decodeUiArg r = .ok i) :
    (∃ tag, i = .sendUiEvent (.unknownTag tag)) ∨ ∃ arg, i = .sendUiEvent arg ∧ uiTag arg + 256 * encodePayload arg = r := by
  unfold decodeUiArg at h
  dsimp only at h
  split at h
  · split at h
    · cases h
    · rename_i htag _ dir hdir
      cases h
      have hmove := encodeMoveFields_of_moveDirOf (show r / 256 < 2 ^ 36 by omega) hdir
      exact .inr ⟨_, rfl, by simp only [uiTag, encodePayload, hmove]; omega⟩
  · split at h <;> cases h
    exact .inr ⟨_, rfl, by simp only [uiTag, encodePayload]; omega⟩
  · split at h <;> cases h
    exact .inr ⟨_, rfl, by simp only [uiTag, encodePayload, BitVec.toNat_ofNat]; omega⟩
  · split at h <;> cases h
    exact .inr ⟨_, rfl, by simp only [uiTag, encodePayload, BitVec.toNat_ofNat]; omega⟩
  · cases h
    exact .inl ⟨_, rfl⟩

/-! ### Whole descriptors -/

theorem within_eq_ok_iff {width r : Nat} {k : Decoded} {i : Instr} : within width r k = .ok i ↔ r < 2 ^ width ∧ k = .ok i := by
  have hlt : r / 2 ^ width = 0 ↔ r < 2 ^ width := by simp
  simp only [within, hlt]
  split <;> simp_all

theorem decodeDescriptor_pack {code : Nat} (h : code < 256) (args : Nat) : decodeDescriptor (code + 256 * args) = decodeArgs code args := by
  rw [decodeDescriptor, show (code + 256 * args) % 256 = code by omega, show (code + 256 * args) / 256 = args by omega]

/-- An operation whose code's row reads `width` bits of arguments is decoded when its arguments fit and are read back. -/
theorem decode_pack {c : Channels} {code r width : Nat} {k : Decoded} {i : Instr} (hcode : code < 256)
    (hrow : decodeArgs code r = within width r k) (hr : r < 2 ^ width) (hk : k = .ok i) : decode c (pack code r) = .ok i :=
  (decodeDescriptor_pack hcode r).trans (hrow.trans (within_eq_ok_iff.mpr ⟨hr, hk⟩))

/-- Settles O7: the fields of every written form are read back, each from its own place. -/
theorem decodeOfEncode : Obligations.DecodeOfEncode := by
  intro cfg i hc hw
  have word (last : Bool) (ch : BitVec 4) (p : U16) (h : nameBusWord cfg.channels last ch p = i) :
      decode cfg.channels (.busWord (assembleWord last ch p)) = .ok i :=
    h ▸ decodeBusWord_assembleWord cfg.channels last ch p
  cases i with
  | reset createOk busOk =>
    exact decode_pack (by decide) rfl (by cases createOk <;> cases busOk <;> decide) (by cases createOk <;> cases busOk <;> rfl)
  | encIsr sigs => exact decode_pack (by decide) rfl sigs.isLt (by simp)
  | audioTick src adc0 adc1 =>
    have hs := srcCode_lt src
    have hsrc : (srcCode src + 4 * (adc0.toNat + 4096 * adc1.toNat)) % 4 = srcCode src := by omega
    refine decode_pack (by decide) rfl (by omega) ?_
    simp only [hsrc, srcOf_srcCode]
    congr 2 <;> exact bitVec_ofNat_eq (by omega)
  | toneEdge => rfl
  | busComplete resp => exact decode_pack (by decide) rfl resp.isLt (by simp)
  | tick => rfl
  | setMode mode => cases mode <;> rfl
  | setFrequency hz => exact decode_pack (by decide) rfl hz.isLt (by simp)
  | setVolume vol => exact decode_pack (by decide) rfl vol.isLt (by simp)
  | busAcquire timeoutMs => exact decode_pack (by decide) rfl timeoutMs.isLt (by simp)
  | busTransceive tok word =>
    refine decode_pack (by decide) rfl (by omega) ?_
    congr 2 <;> exact bitVec_ofNat_eq (by omega)
  | busRelease tok => exact decode_pack (by decide) rfl tok.isLt (by simp)
  | sendUiEvent arg => exact decode_pack (by decide) rfl (uiArgNumber_lt arg) (decodeUiArg_encode hw)
  | recvUiEvent => rfl
  | recvDiagEvent => rfl
  | readOverflow => rfl
  | clearOverflow => rfl
  | readEncDiag idx => exact decode_pack (by decide) rfl idx.isLt (by simp)
  | qdDecode profile st sig =>
    have hp := profileCode_lt profile
    have hprofile : (profileCode profile + 2 * (st.val + 8 * sig.toNat)) % 2 = profileCode profile := by omega
    refine decode_pack (by decide) rfl (by omega) ?_
    rw [hprofile, profileOf_profileCode, fin_ofNat_eq (x := st) (by omega), bitVec_ofNat_eq (x := sig) (by omega)]
  | qdHistory i st2 sig dir now =>
    have hd := directionCode_lt dir
    have hdir : (i.val + 4 * (st2.val + 8 * (sig.toNat + 4 * (directionCode dir + 4 * now.toNat)))) / 128 % 4 = directionCode dir := by
      omega
    refine decode_pack (by decide) rfl (by omega) ?_
    simp only [hdir, directionOf_directionCode]
    rw [fin_ofNat_eq (x := i) (by omega), fin_ofNat_eq (x := st2) (by omega), bitVec_ofNat_eq (x := sig) (by omega),
      bitVec_ofNat_eq (x := now) (by omega)]
  | ebBridge moves =>
    simp only [Instr.wf, movesWf, Bool.and_eq_true, decide_eq_true_eq] at hw
    obtain ⟨hlen, -⟩ := hw
    have hcount : (moves.length + 8 * encodeMoves moves) % 8 = moves.length := by omega
    have hmoves : (moves.length + 8 * encodeMoves moves) / 8 = encodeMoves moves := by omega
    refine (decodeDescriptor_pack (by decide) _).trans ?_
    simp [decodeArgs, hcount, hmoves, decodeMoves_encodeMoves, hlen]
  | toneBestDivisor hz => exact decode_pack (by decide) rfl hz.isLt (by simp)
  | buswGeneric last ch payload => exact word _ _ _ (nameBusWord_generic _ _ (by simpa [Instr.wf] using hw))
  | buswPotWrite last addr value => exact word _ _ _ (nameBusWord_potWrite _ last addr value)
  | buswPotRead last addr => exact word _ _ _ (nameBusWord_potRead _ last addr)
  | buswDispCmd last index => exact word _ _ _ (nameBusWord_dispCmd last index hc)
  | buswDispWrite last value => exact word _ _ _ (nameBusWord_dispWrite last value hc)
  | buswDispRead last => exact word _ _ _ (nameBusWord_dispRead last hc)

/-- What a code's arguments are read as spells them again, but for the payload of an unknown tag. -/
theorem encode_of_decodeArgs {c : Channels} {code r : Nat} {i : Instr} (h : decodeArgs code r = .ok i)
    (hu : ∀ tag, i ≠ .sendUiEvent (.unknownTag tag)) : encode c i = pack code r := by
  unfold decodeArgs at h
  split at h
  -- The operations without arguments.
  case h_4 | h_6 | h_14 | h_15 | h_16 | h_17 =>
    obtain ⟨hr, hi⟩ := within_eq_ok_iff.mp h
    cases hi
    exact congrArg (pack _) (Nat.lt_one_iff.mp hr).symm
  -- The operations whose one argument is a word as it stands.
  case h_2 | h_5 | h_8 | h_9 | h_10 | h_12 | h_18 | h_22 =>
    obtain ⟨hr, hi⟩ := within_eq_ok_iff.mp h
    cases hi
    exact congrArg (pack _) ((BitVec.toNat_ofNat ..).trans (Nat.mod_eq_of_lt hr))
  case h_1 => -- RESET
    obtain ⟨hr, hi⟩ := within_eq_ok_iff.mp h
    cases hi
    clear h
    interval_cases r <;> rfl
  case h_3 => -- AUDIO_TICK
    obtain ⟨hr, hi⟩ := within_eq_ok_iff.mp h
    split at hi <;> cases hi
    have hsrc := srcCode_of_srcOf ‹_›
    refine congrArg (pack _) ?_
    simp only [hsrc, BitVec.toNat_ofNat]
    omega
  case h_7 => -- SET_MODE
    obtain ⟨hr, hi⟩ := within_eq_ok_iff.mp h
    cases hi
    exact congrArg (pack _) ((modeCode_modeOf (Nat.mod_lt r (by decide))).trans (Nat.mod_eq_of_lt hr))
  case h_11 => -- BUS_TRANSCEIVE
    obtain ⟨hr, hi⟩ := within_eq_ok_iff.mp h
    cases hi
    refine congrArg (pack _) ?_
    simp only [BitVec.toNat_ofNat]
    omega
  case h_13 => -- SEND_UI_EVENT
    obtain ⟨hr, hi⟩ := within_eq_ok_iff.mp h
    obtain ⟨tag, rfl⟩ | ⟨arg, rfl, harg⟩ := encode_of_decodeUiArg hr hi
    · exact absurd rfl (hu tag)
    · exact congrArg (pack _) harg
  case h_19 => -- QD_DECODE
    obtain ⟨hr, hi⟩ := within_eq_ok_iff.mp h
    cases hi
    refine congrArg (pack _) ?_
    simp only [profileCode_profileOf (Nat.mod_lt r (by decide)), Fin.ofNat, BitVec.toNat_ofNat]
    omega
  case h_20 => -- QD_HISTORY
    obtain ⟨hr, hi⟩ := within_eq_ok_iff.mp h
    split at hi <;> cases hi
    have hdir := directionCode_of_directionOf ‹_›
    refine congrArg (pack _) ?_
    simp only [hdir, Fin.ofNat, BitVec.toNat_ofNat]
    omega
  case h_21 => -- EB_BRIDGE
    split at h
    · cases h
    split at h <;> cases h
    obtain ⟨hlen, hmoves⟩ := encodeMoves_of_decodeMoves ‹_›
    refine congrArg (pack _) ?_
    rw [hlen, hmoves]
    omega
  case h_23 => cases h

/-- Settles O8: a descriptor is its code beside its arguments, and a word with no reserved bit is its fields. -/
theorem encodeOfDecode : Obligations.EncodeOfDecode := by
  intro c w i h hu
  cases w with
  | descriptor d =>
    rw [encode_of_decodeArgs (code := d % 256) (r := d / 256) h hu, pack, Nat.mod_add_div]
  | busWord w => exact encode_of_decodeBusWord h

/-- R121: the operation map has no other code. -/
theorem decodeArgs_of_unknownCode {code : Nat} (r : Nat)
    (h : code ∉ [0x00, 0x01, 0x02, 0x03, 0x04, 0x05, 0x10, 0x11, 0x12, 0x20, 0x21, 0x22, 0x30, 0x31, 0x32, 0x33, 0x34, 0x35,
      0x50, 0x51, 0x52, 0x53]) : decodeArgs code r = .error (.unknownCode code) := by
  unfold decodeArgs
  split
  case h_23 => rfl
  all_goals exact absurd (by decide) h

/-- A line whose written form spells no instruction is refused with the decoder's reason. -/
theorem step_of_undecodable {s : State} {l : Line} {rest : List Line} {w : Code} {e : DecodeError} (hh : s.halted = none)
    (hs : s.schedule = l :: rest) (hb : l.body = .issue w) (hd : decode s.cfg.channels w = .error e) :
    step s = .refused (.undecodable e) := by
  simp only [step, hh, hs, instrOf, hb, hd]

/-- Settles O10: the decoder's last row answers, and the step refuses with its reason. -/
theorem unknownCodeIsRefused : Obligations.UnknownCodeIsRefused :=
  fun _ _ _ d hh hs hb hd => step_of_undecodable hh hs hb (decodeArgs_of_unknownCode (d / 256) hd)

end Sys2Proof.Machine
end

section
/-! Who may issue an instruction (R121, R375, U6), and what a request-word form sends (R113 to R117, R220). -/

namespace Sys2Proof.Machine

/-! ### The agent of an instruction -/

section
variable {s : State}

theorem asAgent_of_ne {a : Agent} (hr : Running s) (ha : s.offer.agent ≠ a) (k : Out) : asAgent a s k = .refused .wrongContext := by
  simp [asAgent, live_of_running hr, ha]

theorem asTask_of_not_task (hr : Running s) (ha : ∀ t, s.offer.agent ≠ .task t) (i : Instr) (k : Nat → TaskCtl → State → Out) :
    asTask i s k = .refused .wrongContext := by
  rw [asTask, live_of_running hr]
  split
  · exact absurd ‹_› (ha _)
  · rfl

theorem execReset_of_ne (hh : s.halted = none) (ha : s.offer.agent ≠ .environment) (createOk busOk : Bool) :
    execReset createOk busOk s = .refused .wrongContext := by
  simp [execReset, hh, ha]

theorem execToneBestDivisor_of_not_task (hr : Running s) (ha : ∀ t, s.offer.agent ≠ .task t) (hz : U32) :
    execToneBestDivisor hz s = .refused .wrongContext := by
  rw [execToneBestDivisor, live_of_running hr]
  split
  · exact absurd ‹_› (ha _)
  · rfl

end

theorem eq_reset_of_isReset {i : Instr} (h : isReset i = true) : ∃ createOk busOk, i = .reset createOk busOk := by
  cases i with
  | reset createOk busOk => exact ⟨createOk, busOk, rfl⟩
  | _ => cases h

/-- The rows of one agent are guarded by it; RESET guards itself. -/
theorem exec_eq_asAgent {i : Instr} {a : Agent} (h : ownAgent i = some a) (hi : isReset i = false) (s : State) :
    ∃ k, exec i s = asAgent a s k := by
  cases i with
  | reset => cases hi
  | encIsr | audioTick | toneEdge | busComplete | tick | qdDecode | qdHistory | ebBridge => cases h; exact ⟨_, rfl⟩
  | _ => cases h

/-- A transfer, in any of its spellings, is `transceive`. -/
theorem exec_eq_transceive {i : Instr} (h : isTransceive i = true) (s : State) :
    ∃ mine word, exec i s = transceive i mine word s := by
  cases i with
  | busTransceive | buswGeneric | buswPotWrite | buswPotRead | buswDispCmd | buswDispWrite | buswDispRead => exact ⟨_, _, rfl⟩
  | _ => cases h

/-- The operations of the task context are guarded by `asTask`, each as itself. -/
theorem exec_eq_asTask {i : Instr} (h : isTaskOp i = true) (s : State) : ∃ k, exec i s = asTask i s k := by
  cases hx : isTransceive i with
  | true =>
    obtain ⟨mine, word, he⟩ := exec_eq_transceive hx s
    exact ⟨_, he⟩
  | false =>
    cases i with
    | reset | encIsr | audioTick | toneEdge | busComplete | tick | qdDecode | qdHistory | ebBridge | toneBestDivisor => cases h
    | busTransceive | buswGeneric | buswPotWrite | buswPotRead | buswDispCmd | buswDispWrite | buswDispRead => cases hx
    | _ => unfold exec; exact ⟨_, rfl⟩

/-- Settles O12: every meaning looks at the present line's agent before anything else that could stop it. -/
theorem wrongContextIsRefused : Obligations.WrongContextIsRefused := by
  intro i s hr
  constructor
  · intro a hi ha
    cases hx : isReset i with
    | false =>
      obtain ⟨k, hk⟩ := exec_eq_asAgent hi hx s
      rw [hk, asAgent_of_ne hr ha]
    | true =>
      obtain ⟨createOk, busOk, rfl⟩ := eq_reset_of_isReset hx
      cases hi
      exact execReset_of_ne hr.1 ha createOk busOk
  · rintro (hi | ⟨hz, rfl⟩) ha
    · obtain ⟨k, hk⟩ := exec_eq_asTask hi s
      rw [hk, asTask_of_not_task hr ha]
    · exact execToneBestDivisor_of_not_task hr ha hz

/-! ### The first micro-step of a transfer -/

section
variable {s : State} {t : Nat} {i : Instr} {c : TaskCtl} {mine : Nat → Bool} {word : U32}

theorem transceive_start (h : AtStep s t i 0 c) (ho : s.owner = some t) (hm : mine t = true) (hw : reservedClear word = true) :
    transceive i mine word s = .next (movedTo (startTransfer word s) t c 1) := by
  simp [transceive, asTask_of_atStep h, h.step_eq, ho, hm, hw, goStep_eq]

theorem transceive_not_owner (h : AtStep s t i 0 c) (ho : s.owner ≠ some t) :
    transceive i mine word s = .next (haltedWith { s with task := s.task.set t c } .transceiveWithoutOwnership) := by
  simp [transceive, asTask_of_atStep h, h.step_eq, ho, fatalTask_eq]

end

theorem assembleWord_eq_ofNat (last : Bool) (ch : BitVec 4) (p : U16) :
    assembleWord last ch p = BitVec.ofNat 32 (last.toNat * 2 ^ 24 + ch.toNat * 2 ^ 16 + p.toNat) := by
  rw [← assembleWord_toNat, BitVec.ofNat_toNat, BitVec.setWidth_eq]

/-- Settles O32: every form is `transceive` of the word its payload assembles to, with a token that is always the task's own. -/
theorem requestWordFormsSendTheirWords : Obligations.RequestWordFormsSendTheirWords := by
  intro last s t c sends base
  have form {i : Instr} {ch : BitVec 4} {p : U16} {n : Nat} (hn : n = base ch + p.toNat)
      (hi : exec i s = transceive i (fun _ => true) (assembleWord last ch p) s) : sends i n := by
    intro hat
    subst hn
    rw [hi, ← assembleWord_eq_ofNat]
    exact ⟨fun ho => transceive_start hat ho rfl (reservedClear_assembleWord last ch p), transceive_not_owner hat⟩
  refine ⟨fun ch p => form rfl rfl, fun addr value => form ?_ rfl, fun addr => form ?_ rfl, fun index => form ?_ rfl,
    fun value => form ?_ rfl, form rfl rfl⟩
  · rw [potWritePayload_toNat, Nat.add_assoc]
  · rw [potReadPayload_toNat, Nat.add_assoc]
  · rw [dispCmdPayload_toNat, Nat.add_assoc]
  · rw [dispWritePayload_toNat]

end Sys2Proof.Machine
end

section
/-! Profile A's table on swapped lines (R100, R144). -/

namespace Sys2Proof.Machine

theorem signalOfLines_swap (line1 line0 : Bool) : signalOfLines line0 line1 = swapLines (signalOfLines line1 line0) := by
  cases line1 <;> cases line0 <;> rfl

/-- A cell of profile A's table under swapped lines: the mirrored state's, with the mirrored answer. -/
theorem cell_tableA_mirror {y : StIx} (hy : y = 0 ∨ y = 1) (st : StIx) (sig : Signal) :
    Table.cell (tableA 4 y) (mirrorA st) (swapLines sig) =
      (Table.cell (tableA 4 y) st sig).map fun cell => (cell.1.map flipTurn, mirrorA cell.2) := by
  obtain rfl | rfl := hy <;> revert st sig <;> decide

/-- Settles O17, by induction on the samples. -/
theorem swappedLinesSwapDirections : Obligations.SwappedLinesSwapDirections := by
  refine ⟨signalOfLines_swap, fun y st sigs hy => ?_⟩
  induction sigs generalizing st with
  | nil => rfl
  | cons sig sigs ih =>
    have hcell := cell_tableA_mirror hy st sig
    cases hx : Table.cell (tableA 4 y) st sig with
    | none =>
      rw [hx] at hcell
      simp only [List.map_cons, Table.run, hcell, hx, Option.map_none, List.map_nil]
    | some cell =>
      rw [hx] at hcell
      simp only [List.map_cons, Table.run, hcell, hx, Option.map_some, ih]

end Sys2Proof.Machine
end

section
/-! The transition tables of the quadrature decoder (R141, R143 to R149, R153): their cells, and their runs along whole rotations. -/

namespace Sys2Proof.Machine

/-! ### Cells and runs of a table -/

theorem Table.run_of_cell {t : Table} {st next : StIx} {sig : Signal} {dir : Direction} (h : Table.cell t st sig = some (dir, next))
    (sigs : List Signal) : Table.run t st (sig :: sigs) = (dir :: (Table.run t next sigs).1, (Table.run t next sigs).2) := by
  simp only [Table.run, h]

/-- A table whose rows have four cells answers every signal in each state that is one of its rows (R141). -/
theorem Table.cell_isSome {t : Table} (hrows : ∀ row ∈ t, row.length = 4) {st : StIx} (hst : st.val < t.length) (sig : Signal) :
    (Table.cell t st sig).isSome = true := by
  have hsig : sig.toNat < t[st.val].length := (hrows _ (List.getElem_mem hst)).symm ▸ sig.isLt
  simp [Table.cell, List.getElem?_eq_getElem hst, List.getElem?_eq_getElem hsig]

/-! ### The tables of a configuration are total (R141, R143) -/

theorem tableA_rows (x y : StIx) : (tableA x y).length = 7 ∧ ∀ row ∈ tableA x y, row.length = 4 :=
  ⟨rfl, by simp [tableA]⟩

/-- The shape that R146 asks of a Profile B table. -/
theorem profileBTable_rows {cfg : Config} (h : cfg.wf = true) :
    cfg.profileBTable.length = 8 ∧ ∀ row ∈ cfg.profileBTable, row.length = 4 := by
  have hok : profileBTableOk cfg.profileBTable = true := by
    simp only [Config.wf, Bool.and_eq_true, and_assoc] at h
    obtain ⟨-, -, -, -, hok, -⟩ := h
    exact hok
  simp only [profileBTableOk, Bool.and_eq_true, and_assoc, decide_eq_true_eq, List.all_eq_true] at hok
  obtain ⟨hlen, hrows, -⟩ := hok
  exact ⟨hlen, hrows⟩

theorem tableOf_rows {cfg : Config} (h : cfg.wf = true) (p : EncoderProfile) :
    (tableOf cfg p).length = stateCount p ∧ ∀ row ∈ tableOf cfg p, row.length = 4 := by
  cases p with
  | a => exact tableA_rows _ _
  | b => exact profileBTable_rows h

theorem tableOf_cell_isSome {cfg : Config} (h : cfg.wf = true) {p : EncoderProfile} {st : StIx} (hst : legalState p st = true)
    (sig : Signal) : (Table.cell (tableOf cfg p) st sig).isSome = true := by
  obtain ⟨hlen, hrows⟩ := tableOf_rows h p
  exact Table.cell_isSome hrows (hlen ▸ of_decide_eq_true hst) sig

/-! ### QD_DECODE (R143) -/

section
variable {s : State} {p : EncoderProfile} {st : StIx} {sig : Signal}

theorem decodeCell_of_legal {cfg : Config} (h : legalState p st = true) : decodeCell cfg p st sig = Table.cell (tableOf cfg p) st sig :=
  if_pos h

theorem decodeCell_of_illegal {cfg : Config} (h : legalState p st = false) : decodeCell cfg p st sig = none := by
  simp [decodeCell, h]

theorem exec_qdDecode_of_some (hs : StepOf s .encIsr) {dir : Direction} {next : StIx} (h : decodeCell s.cfg p st sig = some (dir, next)) :
    exec (.qdDecode p st sig) s = .next { s with fnResult := .decoded next dir } :=
  (asAgent_of_stepOf hs _).trans (by rw [h])

theorem exec_qdDecode_of_none (hs : StepOf s .encIsr) (h : decodeCell s.cfg p st sig = none) :
    exec (.qdDecode p st sig) s = .refused .illegalEncoderState :=
  (asAgent_of_stepOf hs _).trans (by rw [h])

end

/-- Settles O13: a legal state is a row of its profile's table, whose cells lead to legal states. -/
theorem qdDecodeAnswersTheCell : Obligations.QdDecodeAnswersTheCell := by
  intro p st sig s hs hw
  constructor
  · intro hst
    obtain ⟨⟨dir, next⟩, hcell⟩ := Option.isSome_iff_exists.mp (tableOf_cell_isSome hw hst sig)
    have hdec : decodeCell s.cfg p st sig = some (dir, next) := (decodeCell_of_legal hst).trans hcell
    exact ⟨dir, next, hcell, decodeCell_legal hw hdec, exec_qdDecode_of_some hs hdec⟩
  · intro hst
    exact exec_qdDecode_of_none hs (decodeCell_of_illegal hst)

/-! ### Profile A along whole rotations (R145, R153) -/

/-- The first path, from either rest position, with `X = 4`: silence, then its direction, and the other rest position. -/
theorem tableA_four_path (y : StIx) (at11 : Bool) (d : Turn) (ds : List Turn) :
    Table.run (tableA 4 y) (if at11 then 4 else 1) (pathsA at11 (d :: ds)) =
      (none :: some d :: (Table.run (tableA 4 y) (if !at11 then 4 else 1) (pathsA (!at11) ds)).1,
        (Table.run (tableA 4 y) (if !at11 then 4 else 1) (pathsA (!at11) ds)).2) := by
  cases at11 <;> cases d <;> rfl

/-- With `X = 1` the first of two paths the same way emits, and the second leads back to state 1 in silence. -/
theorem tableA_one_twoPaths (y : StIx) (d : Turn) (ds : List Turn) :
    Table.run (tableA 1 y) 1 (pathsA false (d :: d :: ds)) =
      ([none, some d, none, none] ++ (Table.run (tableA 1 y) 1 (pathsA false ds)).1, (Table.run (tableA 1 y) 1 (pathsA false ds)).2) := by
  cases d <;> rfl

/-- The rest position changes with each path. -/
theorem bne_decide_odd_succ (at11 : Bool) (n : Nat) : (at11 != decide ((n + 1) % 2 = 1)) = ((!at11) != decide (n % 2 = 1)) := by
  rcases Nat.mod_two_eq_zero_or_one n with h | h <;> simp [Nat.add_mod, h]

/-- Settles O14: by induction on the paths, one at a time with `X = 4` and two at a time with `X = 1`. -/
theorem profileAEmitsOncePerPath : Obligations.ProfileAEmitsOncePerPath := by
  constructor
  · intro y ds at11
    induction ds generalizing at11 with
    | nil => simp [pathsA, Table.run]
    | cons d ds ih => rw [tableA_four_path, ih, List.length_cons, bne_decide_odd_succ]; rfl
  · intro y d n
    induction n with
    | zero => rfl
    | succ n ih => rw [Nat.mul_succ, List.replicate_succ, List.replicate_succ, tableA_one_twoPaths, ih]; rfl

/-! ### Profile B along whole rotations (R147, R148) -/

/-- The first full path: silence, then its direction at 00, and state 1 again. -/
theorem tableB_path (d : Turn) (ds : List Turn) :
    Table.run tableB 1 (pathsB (d :: ds)) =
      ([none, none, none, some d] ++ (Table.run tableB 1 (pathsB ds)).1, (Table.run tableB 1 (pathsB ds)).2) := by
  cases d <;> rfl

/-- The states of profile B that a single-line walk from 00 avoiding 11 can be in, each with the present signal. -/
def NearRest (st : StIx) (p : Signal) : Prop := (st, p) ∈ [((1 : StIx), (0 : Signal)), (2, 1), (5, 2)]

/-- A single-line step that avoids 11 keeps the walk near rest, and emits nothing. -/
theorem tableB_nearRest_step {st : StIx} {p sig : Signal} (h : NearRest st p) (hstep : oneLine p sig = true) (h3 : sig ≠ 3) :
    ∃ next, Table.cell tableB st sig = some (none, next) ∧ NearRest next sig := by
  revert st p sig
  unfold NearRest
  decide

theorem tableB_nearRest_silent {sigs : List Signal} {st : StIx} {p : Signal} (h : NearRest st p) (hw : singleLineWalk p sigs = true)
    (h3 : 3 ∉ sigs) : ∀ d ∈ (Table.run tableB st sigs).1, d = none := by
  induction sigs generalizing st p with
  | nil => exact nofun
  | cons sig sigs ih =>
    obtain ⟨hstep, hw⟩ := Bool.and_eq_true_iff.mp hw
    obtain ⟨hne, h3⟩ := not_or.mp (mt List.mem_cons.mpr h3)
    obtain ⟨next, hcell, hnext⟩ := tableB_nearRest_step h hstep (Ne.symm hne)
    rw [Table.run_of_cell hcell]
    exact List.forall_mem_cons.mpr ⟨rfl, ih hnext hw h3⟩

/-- R146 B6 for the default table: only column 00 holds a direction. -/
theorem tableB_silent_off_zero {st : StIx} {sig : Signal} (h : sig ≠ 0) :
    (Table.cell tableB st sig).all (fun c => c.1.isNone) = true := by
  revert st sig
  decide

theorem tableB_run_emits_at_zero {sigs : List Signal} {st : StIx} {k : Nat} {d : Turn}
    (h : (Table.run tableB st sigs).1[k]? = some (some d)) : sigs[k]? = some 0 := by
  induction sigs generalizing st k with
  | nil => cases h
  | cons sig sigs ih =>
    cases hc : Table.cell tableB st sig with
    | none => simp [Table.run, hc] at h
    | some c =>
      rw [Table.run_of_cell hc] at h
      cases k with
      | zero =>
        have hdir : c.1 = some d := by simpa using h
        by_contra hne
        have hsilent := tableB_silent_off_zero (st := st) (sig := sig) (mt (congrArg some) hne)
        simp [hc, hdir] at hsilent
      | succ k => exact ih h

/-- Settles O15: by induction on the paths, and along the samples for the walks that are no path. -/
theorem profileBEmitsOncePerFullPath : Obligations.ProfileBEmitsOncePerFullPath := by
  refine ⟨fun ds => ?_, fun sigs hw h3 => tableB_nearRest_silent (by simp [NearRest]) hw h3, fun st sigs k d => tableB_run_emits_at_zero⟩
  induction ds with
  | nil => rfl
  | cons d ds ih => rw [tableB_path, ih]; rfl

/-! ### Position signals (R149) -/

/-- A cell of profile A's table leads to the lost state 0, or to the state whose position signal it stands under. -/
theorem tableA_four_position {y : StIx} (hy : y = 0 ∨ y = 1) (st : StIx) (sig : Signal) :
    (Table.cell (tableA 4 y) st sig).all
      (fun c => c.2 = 0 ∨ (c.2, sig) ∈ [((1 : StIx), (0 : Signal)), (2, 1), (3, 2), (4, 3), (5, 1), (6, 2)]) = true := by
  obtain rfl | rfl := hy <;> revert st sig <;> decide

/-- The same for profile B's default table. -/
theorem tableB_position (st : StIx) (sig : Signal) :
    (Table.cell tableB st sig).all
      (fun c => c.2 = 0 ∨ (c.2, sig) ∈ [((1 : StIx), (0 : Signal)), (2, 1), (3, 3), (4, 2), (5, 2), (6, 3), (7, 1)]) = true := by
  revert st sig
  decide

/-- Settles O16: the tables are read cell by cell. -/
theorem positionSignalKeepsState : Obligations.PositionSignalKeepsState := by
  refine ⟨fun y => ?keptA, by decide, fun y st next sig dir hy hc hne => ?intoA, fun st next sig dir hc hne => ?intoB,
    fun y => ⟨rfl, rfl, rfl⟩⟩
  case keptA => simp only [List.forall_mem_cons]; exact ⟨rfl, rfl, rfl, rfl, rfl, rfl, nofun⟩
  case intoA =>
    have h := tableA_four_position hy st sig
    rw [hc] at h
    exact (of_decide_eq_true h).resolve_left hne
  case intoB =>
    have h := tableB_position st sig
    rw [hc] at h
    exact (of_decide_eq_true h).resolve_left hne

end Sys2Proof.Machine
end

section
/-! The encoders' history and its diagnostic read (R150, R160): QD_HISTORY and READ_ENC_DIAG. -/

namespace Sys2Proof.Machine

/-! ### QD_HISTORY -/

section
variable {s : State} {i : EncIx} {st2 : StIx} {sig : Signal} {dir : Direction} {now : U32}

theorem recordHist_of_eq {e : EncState} (h : sig = e.hist[0].sig) : recordHist e st2 sig dir now = e := if_pos h

theorem recordHist_of_ne {e : EncState} (h : sig ≠ e.hist[0].sig) : recordHist e st2 sig dir now =
    { e with hist := pushHist e.hist { st := st2, sig := sig, dir := dir, dt := now - e.lastChange }, lastChange := now } := if_neg h

theorem exec_qdHistory_of_legal (hs : StepOf s .encIsr) (h : legalState s.cfg.profiles[i] st2 = true) :
    exec (.qdHistory i st2 sig dir now) s =
      .next { s with enc := s.enc.set i (recordHist s.enc[i] st2 sig dir now), fnResult := .none } :=
  (asAgent_of_stepOf hs _).trans (if_pos h)

theorem exec_qdHistory_of_illegal (hs : StepOf s .encIsr) (h : legalState s.cfg.profiles[i] st2 = false) :
    exec (.qdHistory i st2 sig dir now) s = .refused .illegalEncoderState :=
  (asAgent_of_stepOf hs _).trans (if_neg (Bool.not_eq_true _ ▸ h))

end

/-- Settles O18: the encoder written is the one `recordHist` makes, which is the old one for an equal signal. -/
theorem qdHistoryRecordsChanges : Obligations.QdHistoryRecordsChanges := by
  intro i st2 sig dir now s hs
  refine ⟨exec_qdHistory_of_illegal hs, fun hl heq => ?_, fun hl hne => ?_⟩
  · rw [exec_qdHistory_of_legal hs hl, recordHist_of_eq heq]
    simp
  · refine ⟨_, exec_qdHistory_of_legal hs hl, ?_⟩
    rw [recordHist_of_ne hne]
    exact ⟨rfl, rfl, pushHist_succ _ _, rfl⟩

/-! ### One micro-step of READ_ENC_DIAG -/

section
variable (e : EncState) (snap : Snapshot)

theorem readDiag_zero : readDiag e 0 snap = { snap with st := e.st } := rfl

theorem readDiag_hist (j : Fin 10) : readDiag e (j.val + 1) snap = { snap with hist := snap.hist.set j e.hist[j] } := by
  simp [readDiag]

theorem readDiag_eleven : readDiag e 11 snap = { snap with lastChange := e.lastChange } := rfl

end

section
variable {s : State} {t k : Nat} {c : TaskCtl} {idx : U8} {i : EncIx}

theorem exec_readEncDiag_out_of_range (h : AtStep s t (.readEncDiag idx) k c) (hi : 4 ≤ idx.toNat) :
    exec (.readEncDiag idx) s = .refused .argOutOfRange := by
  simp [exec, execReadEncDiag, asTask_of_atStep h, Nat.not_lt.mpr hi]

/-- All that a micro-step of READ_ENC_DIAG does for encoder `i`. -/
theorem exec_readEncDiag_eq (h : AtStep s t (.readEncDiag idx) k c) (hi : idx.toNat = i.val) :
    exec (.readEncDiag idx) s =
      if k = 0 ∧ legalState s.cfg.profiles[i] s.enc[i].st = false then .refused .illegalEncoderState
      else if k < 11 then
        .next (movedTo s t { c with locals := { c.locals with snap := readDiag s.enc[i] k c.locals.snap } } (k + 1))
      else .next (returned s t { c with locals := { c.locals with snap := readDiag s.enc[i] k c.locals.snap } }
        (.snapshot (readDiag s.enc[i] k c.locals.snap))) := by
  simp [exec, execReadEncDiag, asTask_of_atStep h, hi, h.step_eq, goStep_eq, finish_eq]

theorem exec_readEncDiag_illegal (h : AtStep s t (.readEncDiag idx) 0 c) (hi : idx.toNat = i.val)
    (hl : legalState s.cfg.profiles[i] s.enc[i].st = false) : exec (.readEncDiag idx) s = .refused .illegalEncoderState :=
  (exec_readEncDiag_eq h hi).trans (if_pos ⟨rfl, hl⟩)

/-- A micro-step before the last reads its field and goes on. -/
theorem exec_readEncDiag_read (h : AtStep s t (.readEncDiag idx) k c) (hi : idx.toNat = i.val)
    (hl : k = 0 → legalState s.cfg.profiles[i] s.enc[i].st = true) (hk : k < 11) :
    exec (.readEncDiag idx) s =
      .next (movedTo s t { c with locals := { c.locals with snap := readDiag s.enc[i] k c.locals.snap } } (k + 1)) := by
  have hnot : ¬(k = 0 ∧ legalState s.cfg.profiles[i] s.enc[i].st = false) :=
    fun ⟨h0, hf⟩ => absurd (hl h0) (ne_true_of_eq_false hf)
  rw [exec_readEncDiag_eq h hi, if_neg hnot, if_pos hk]

/-- The last micro-step reads its field and returns the snapshot. -/
theorem exec_readEncDiag_last (h : AtStep s t (.readEncDiag idx) 11 c) (hi : idx.toNat = i.val) :
    exec (.readEncDiag idx) s =
      .next (returned s t { c with locals := { c.locals with snap := readDiag s.enc[i] 11 c.locals.snap } }
        (.snapshot (readDiag s.enc[i] 11 c.locals.snap))) :=
  (exec_readEncDiag_eq h hi).trans (if_neg nofun)

end

/-- Settles O19: each micro-step is the read that its number names. -/
theorem readEncDiagReadsOneFieldAStep : Obligations.ReadEncDiagReadsOneFieldAStep := by
  intro idx s t k c h
  refine ⟨exec_readEncDiag_out_of_range h, fun i hi => ⟨?_, ?_, ?_, ?_⟩⟩
  · rintro rfl hl
    exact exec_readEncDiag_illegal h hi hl
  · rintro rfl hl
    exact exec_readEncDiag_read h hi (fun _ => hl) (by decide)
  · rintro j rfl
    rw [← readDiag_hist]
    exact exec_readEncDiag_read h hi nofun (by omega)
  · rintro rfl
    exact ⟨_, exec_readEncDiag_last h hi⟩

/-! ### The lines of a whole operation (R123) -/

theorem steps_succ_of_next {s s' : State} (h : step s = .next s') (n : Nat) : steps (n + 1) s = steps n s' := by
  simp only [steps, h]

theorem steps_one (s : State) : steps 1 s = step s := by
  simp only [steps]
  cases step s <;> rfl

section
variable {s : State} {l : Line} {rest : List Line} {t : Nat} {c : TaskCtl} {i : Instr}

/-- A line of an idle task lets it take up any operation. -/
theorem atStep_take_start (hr : Running s) (ha : l.offer.agent = .task t) (hc : s.task[t]? = some c) (hop : c.op = none) :
    AtStep (s.take l rest) t i 0 (c.start i) :=
  ⟨⟨hr, ha⟩, c, hc, .inl ⟨hop, rfl, rfl⟩⟩

/-- A line of a busy task lets it take its operation's next micro-step. -/
theorem atStep_take_resume (hr : Running s) (ha : l.offer.agent = .task t) (hc : s.task[t]? = some c) (hop : c.op = some i) :
    AtStep (s.take l rest) t i c.step c :=
  ⟨⟨hr, ha⟩, c, hc, .inr ⟨hop, rfl, rfl⟩⟩

theorem step_of_resume (hh : s.halted = none) (hs : s.schedule = l :: rest) (hb : l.body = .resume) (ha : l.offer.agent = .task t)
    (hc : s.task[t]? = some c) (hop : c.op = some i) : step s = exec i (s.take l rest) :=
  step_of_instrOf_some hh hs ((instrOf_of_resume hb ha hc).trans (congrArg _ hop))

end

/-! ### A whole READ_ENC_DIAG without interruption -/

/-- The snapshot after the `n` reads from micro-step `k` on. -/
def readDiags (e : EncState) (k n : Nat) (snap : Snapshot) : Snapshot :=
  (List.range' k n).foldl (fun snap k => readDiag e k snap) snap

theorem readDiags_succ (e : EncState) (k n : Nat) (snap : Snapshot) :
    readDiags e k (n + 1) snap = readDiags e (k + 1) n (readDiag e k snap) := rfl

theorem readDiags_concat (e : EncState) (k n : Nat) (snap : Snapshot) :
    readDiags e k (n + 1) snap = readDiag e (k + n) (readDiags e k n snap) := by
  simp [readDiags, List.range'_concat]

/-- Micro-steps 1 to `n` have read the `n` newest history entries. -/
theorem readDiags_hist (e : EncState) (snap : Snapshot) {n : Nat} (hn : n ≤ 10) :
    readDiags e 1 n snap = { snap with hist := Vector.ofFn fun j => if j.val < n then e.hist[j] else snap.hist[j] } := by
  induction n with
  | zero => simp [readDiags]
  | succ n ih =>
    rw [readDiags_concat, ih (by omega), Nat.add_comm, readDiag_hist e _ ⟨n, hn⟩]
    congr 1
    ext j hj
    simp only [Vector.getElem_set, Vector.getElem_ofFn]
    grind

/-- The twelve reads of one encoder, which does not change between them, make it whole. -/
theorem readDiags_whole (e : EncState) (snap : Snapshot) :
    readDiags e 0 12 snap = { st := e.st, hist := e.hist, lastChange := e.lastChange } := by
  rw [readDiags_succ, readDiags_concat, readDiags_hist _ _ (le_refl 10)]
  simp [readDiag_zero, readDiag_eleven]

/-- The control state of a task that has read the field of micro-step `k` of encoder state `e` and goes on. -/
def TaskCtl.afterRead (c : TaskCtl) (e : EncState) (k : Nat) : TaskCtl :=
  { c with step := k + 1, locals := { c.locals with snap := readDiag e k c.locals.snap } }

/-- From micro-step `k` on, when the lines that follow resume the task's operation to its end: the block but for the task's control state and the
schedule is as it was, and the task holds the snapshot of the reads. -/
theorem readEncDiag_rest {idx : U8} {i : EncIx} (hi : idx.toNat = i.val) {t m k : Nat} {s : State} {c : TaskCtl} {rest : List Line}
    (h : AtStep s t (.readEncDiag idx) k c) (hl : k = 0 → legalState s.cfg.profiles[i] s.enc[i].st = true)
    (hs : s.schedule = List.replicate m { offer := s.offer, body := .resume } ++ rest) (hm : k + m = 11) :
    ∃ s₁ c', exec (.readEncDiag idx) s = .next s₁ ∧ steps m s₁ = .next { s with schedule := rest, task := s.task.set t c' } ∧
      c'.op = none ∧ c'.result = .snapshot (readDiags s.enc[i] k (m + 1) c.locals.snap) := by
  induction m generalizing k s c with
  | zero =>
    obtain rfl : k = 11 := hm
    have hs : s.schedule = rest := hs
    exact ⟨_, _, exec_readEncDiag_last h hi, by rw [← hs]; rfl, rfl, rfl⟩
  | succ m ih =>
    obtain ⟨⟨hr₀, ha⟩, -⟩ := id h
    have hr : Running (s.setTask t (c.afterRead s.enc[i] k)) := hr₀
    have hc : (s.setTask t (c.afterRead s.enc[i] k)).task[t]? = some (c.afterRead s.enc[i] k) := List.getElem?_set_self h.lt
    have hread : exec (.readEncDiag idx) s = .next (s.setTask t (c.afterRead s.enc[i] k)) :=
      exec_readEncDiag_read h hi hl (by omega)
    have hstep := step_of_resume hr.1 hs rfl ha hc h.op_eq
    have hat : AtStep (State.take _ { offer := s.offer, body := .resume } (List.replicate m { offer := s.offer, body := .resume } ++ rest))
        t (.readEncDiag idx) (k + 1) (c.afterRead s.enc[i] k) := atStep_take_resume hr ha hc h.op_eq
    obtain ⟨s₁, c', hx, hrest, hop, hres⟩ := ih hat nofun rfl (by omega)
    refine ⟨_, c', hread, (steps_succ_of_next (hstep.trans hx) m).trans (hrest.trans ?_), hop, hres⟩
    simp [State.take, State.setTask]

/-- Settles O20: the first line issues the operation, and the eleven that resume it find the encoder as it was. -/
theorem uninterruptedReadEncDiagReturnsTheEncoder : Obligations.UninterruptedReadEncDiagReturnsTheEncoder := by
  intro idx i s t c o rest hi hr ho hc hop hs
  have hdec : decode s.cfg.channels (encode s.cfg.channels (.readEncDiag idx)) = .ok (.readEncDiag idx) :=
    decode_pack (by decide) rfl idx.isLt (by simp)
  have hstep := step_of_instrOf_some hr.1 hs (instrOf_of_issue rfl hdec)
  have hat : AtStep (s.take { offer := o, body := .issue (encode s.cfg.channels (.readEncDiag idx)) }
      (List.replicate 11 { offer := o, body := .resume } ++ rest)) t (.readEncDiag idx) 0 (c.start _) := atStep_take_start hr ho hc hop
  constructor
  · intro hl
    exact (steps_one s).trans (hstep.trans (exec_readEncDiag_illegal hat hi hl))
  · intro hl
    obtain ⟨s₁, c', hx, hrest, hop', hres⟩ := readEncDiag_rest hi hat (fun _ => hl) rfl rfl
    exact ⟨c', (steps_succ_of_next (hstep.trans hx) 11).trans hrest, hop', hres.trans (congrArg _ (readDiags_whole _ _))⟩

end Sys2Proof.Machine
end

section
/-! The event bridge and the encoder interrupt (R180 to R188): EB_BRIDGE and ENC_ISR. -/

namespace Sys2Proof.Machine

/-! ### The queues and the flag after EB_BRIDGE (R182 to R184) -/

/-- Sending one value and then the rest, each while there is room, is sending as many of them as fit. -/
theorem append_take_of_send {α β : Type} (f : α → β) (cap : Nat) (q : List β) (m : α) (ms : List α) :
    (if q.length < cap then q ++ [f m] else q) ++
        (ms.take (cap - (if q.length < cap then q ++ [f m] else q).length)).map f =
      q ++ ((m :: ms).take (cap - q.length)).map f := by
  by_cases h : q.length < cap
  · have hroom : cap - q.length = cap - (q.length + 1) + 1 := by omega
    simp [h, hroom]
  · have hfull : cap - q.length = 0 := by omega
    simp [h, hfull]

/-- Of one value and `n` more, some do not fit when there is no room for the one, or afterwards too little for the rest. -/
theorem send_fails_iff {α : Type} (cap : Nat) (q : List α) (v : α) (n : Nat) :
    (decide (cap ≤ q.length) || decide (cap - (if q.length < cap then q ++ [v] else q).length < n)) = decide (cap - q.length < n + 1) := by
  by_cases h : q.length < cap
  · simp [h, Nat.not_le.mpr h]
    omega
  · simp [Nat.not_lt.mp h, Nat.sub_eq_zero_of_le (Nat.not_lt.mp h)]

/-- EB_BRIDGE's whole effect on the block, by induction on the moves. -/
theorem bridge_eq (ms : List EncoderMove) (s : State) : bridge ms s =
    { s with
      qPrimary := s.qPrimary ++ (ms.take (s.cfg.primaryDepth - s.qPrimary.length)).map .encoderMove
      qDiag := s.qDiag ++ ms.take (s.cfg.diagDepth - s.qDiag.length)
      overflow := s.overflow || decide (s.cfg.primaryDepth - s.qPrimary.length < ms.length) } := by
  induction ms generalizing s with
  | nil => simp [bridge]
  | cons m ms ih =>
    have hprimary := append_take_of_send UiEvent.encoderMove s.cfg.primaryDepth s.qPrimary m ms
    have hdiag := append_take_of_send id s.cfg.diagDepth s.qDiag m ms
    simp only [List.map_id_fun, id] at hdiag
    rw [bridge, ih, bridgeOne_eq]
    simp only [hprimary, hdiag, Bool.or_assoc, send_fails_iff, List.length_cons]

/-! ### The yield flag (R185) -/

/-- The next send that succeeds meets a receiver held at its empty queue. -/
def MeetsHeldReceiver (s : State) : Prop :=
  (s.qPrimary = [] ∧ 0 < s.cfg.primaryDepth ∧ ∃ c ∈ s.task, c.op = some .recvUiEvent ∧ c.step = 0) ∨
  (s.qDiag = [] ∧ 0 < s.cfg.diagDepth ∧ ∃ c ∈ s.task, c.op = some .recvDiagEvent ∧ c.step = 0)

/-- A send to a queue that wakes a receiver of it. -/
theorem qSend_wakes_iff {α : Type} (s : State) (cap : Nat) (q : List α) (v : α) (recv : Instr) :
    ((qSend cap q v).isSome && receiverWaiting s q recv) = true ↔
      q = [] ∧ 0 < cap ∧ ∃ c ∈ s.task, c.op = some recv ∧ c.step = 0 := by
  cases q with
  | nil => by_cases h : 0 < cap <;> simp [qSend, receiverWaiting, h]
  | cons x xs => simp [receiverWaiting]

theorem bridgeWakes_iff (m : EncoderMove) (s : State) : bridgeWakes m s = true ↔ MeetsHeldReceiver s := by
  rw [bridgeWakes, Bool.or_eq_true, qSend_wakes_iff, qSend_wakes_iff, MeetsHeldReceiver]

/-- A queue with any room at all is not empty after a send. -/
theorem send_ne_nil {α : Type} {cap : Nat} (h : 0 < cap) (q : List α) (v : α) : (if q.length < cap then q ++ [v] else q) ≠ [] := by
  split
  · simp
  · rename_i hfull
    rintro rfl
    exact hfull h

/-- After one round neither queue is both empty and able to take a move. -/
theorem not_meetsHeldReceiver_bridgeOne (m : EncoderMove) (s : State) : ¬MeetsHeldReceiver (bridgeOne m s) := by
  rw [bridgeOne_eq]
  rintro (⟨hempty, hroom, -⟩ | ⟨hempty, hroom, -⟩)
  · exact send_ne_nil hroom _ _ hempty
  · exact send_ne_nil hroom _ _ hempty

/-- The first round alone can request the yield. -/
theorem bridgeYield_iff (ms : List EncoderMove) (s : State) : bridgeYield ms s = true ↔ ms ≠ [] ∧ MeetsHeldReceiver s := by
  induction ms generalizing s with
  | nil => simp [bridgeYield]
  | cons m ms ih => simp [bridgeYield, ih, bridgeWakes_iff, not_meetsHeldReceiver_bridgeOne]

/-- Settles O24: EB_BRIDGE checks its operand, and `bridge_eq` and `bridgeYield_iff` say what it then does. -/
theorem ebBridgeFillsTheQueues : Obligations.EbBridgeFillsTheQueues := by
  intro ms s hs
  constructor
  · intro hwf
    refine ⟨bridgeYield ms s, ?_, bridgeYield_iff ms s⟩
    calc exec (.ebBridge ms) s = .next { bridge ms s with fnResult := .yieldFlag (bridgeYield ms s) } :=
          (asAgent_of_stepOf hs _).trans (if_pos hwf)
      _ = _ := by rw [bridge_eq]
  · intro hwf
    exact (asAgent_of_stepOf hs _).trans (if_neg (Bool.not_eq_true _ ▸ hwf))

/-! ### The moves of one interrupt (R180, R181, R188) -/

section
variable {s : State} {sigs : U8} {i : EncIx}

theorem encMove_eq_some_iff {m : EncoderMove} : encMove s sigs i = some m ↔
    m.enc = i ∧ m.time = s.tick ∧ ∃ next, encCell s sigs i = some (some m.dir, next) := by
  obtain ⟨enc, time, dir⟩ := m
  unfold encMove
  split
  · rename_i d next hcell
    constructor
    · rintro ⟨⟩
      exact ⟨rfl, rfl, next, hcell⟩
    · rintro ⟨rfl, rfl, next', hcell'⟩
      cases hcell.symm.trans hcell'
      rfl
  · rename_i hnone
    exact ⟨nofun, fun ⟨_, _, next, hcell⟩ => absurd hcell (hnone dir next)⟩

/-- Every choice of the line is an order of the four encoders. -/
theorem encOrder_perm (o : Fin 24) : (encOrder o).Perm [0, 1, 2, 3] := by
  revert o
  decide

/-- Every order of the four encoders is a choice of the line. -/
theorem exists_encOrder_eq {l : List EncIx} (h : l.Perm [0, 1, 2, 3]) : ∃ o : Fin 24, encOrder o = l := by
  have hall : ∀ l ∈ List.permutations' ([0, 1, 2, 3] : List EncIx), ∃ o : Fin 24, encOrder o = l := by decide
  exact hall l (List.mem_permutations'.mpr h)

theorem encOrder_nodup (o : Fin 24) : (encOrder o).Nodup := (encOrder_perm o).nodup_iff.mpr (by decide)

theorem mem_encOrder (o : Fin 24) (i : EncIx) : i ∈ encOrder o := (encOrder_perm o).mem_iff.mpr (by revert i; decide)

theorem mem_encMoves_iff {m : EncoderMove} : m ∈ encMoves s sigs ↔ encMove s sigs m.enc = some m := by
  simp only [encMoves, List.mem_filterMap, mem_encOrder, true_and]
  constructor
  · rintro ⟨i, hi⟩
    obtain ⟨rfl, -⟩ := encMove_eq_some_iff.mp hi
    exact hi
  · exact fun h => ⟨m.enc, h⟩

/-- The encoders of the moves are those that decoded a direction, in the line's order. -/
theorem encMoves_map_enc : (encMoves s sigs).map EncoderMove.enc =
    (encOrder s.offer.order).filter fun i => (encMove s sigs i).isSome := by
  rw [encMoves, List.map_filterMap, ← List.filterMap_eq_filter]
  congr 1
  funext i
  cases h : encMove s sigs i with
  | none => simp [Option.guard, h]
  | some m => simp [Option.guard, h, (encMove_eq_some_iff.mp h).1]

theorem encMoves_enc_nodup : ((encMoves s sigs).map EncoderMove.enc).Nodup :=
  encMoves_map_enc ▸ (encOrder_nodup _).filter _

theorem encMoves_length_le : (encMoves s sigs).length ≤ 4 :=
  (List.length_filterMap_le _ _).trans (encOrder_perm _).length_eq.le

end

/-- An order of the moves comes from the order of their encoders, with the encoders without a move after them. -/
theorem exists_order_of_perm {s : State} {sigs : U8} {l : List EncoderMove} (h : l.Perm (encMoves s sigs)) :
    ∃ o : Fin 24, (encOrder o).filterMap (encMove s sigs) = l := by
  have hmoved : (l.map EncoderMove.enc).Perm ((encOrder s.offer.order).filter fun i => (encMove s sigs i).isSome) :=
    encMoves_map_enc ▸ h.map _
  obtain ⟨o, ho⟩ := exists_encOrder_eq
    (((hmoved.append_right _).trans (List.filter_append_perm _ _)).trans (encOrder_perm s.offer.order))
  refine ⟨o, ?_⟩
  have hsent : (l.map EncoderMove.enc).filterMap (encMove s sigs) = l := by
    rw [List.filterMap_map]
    exact (List.filterMap_congr fun m hm => mem_encMoves_iff.mp (h.mem_iff.mp hm)).trans List.filterMap_some
  have hsilent : ((encOrder s.offer.order).filter fun i => !(encMove s sigs i).isSome).filterMap (encMove s sigs) = [] := by
    simp [List.filterMap_eq_nil_iff]
  rw [ho, List.filterMap_append, hsent, hsilent, List.append_nil]

/-- Settles O23: the line's choice orders the encoders, and with them their moves. -/
theorem moveOrderIsAnyPermutation : Obligations.MoveOrderIsAnyPermutation :=
  ⟨fun _ _ => ⟨fun o => ((encOrder_perm o).trans (encOrder_perm _).symm).filterMap _, fun _ h => exists_order_of_perm h⟩,
    fun _ h => exists_encOrder_eq h⟩

/-! ### ENC_ISR (R180) -/

/-- All that the interrupt writes once every encoder has decoded its sample. -/
theorem interruptEncoders_eq (s : State) (sigs : U8) : interruptEncoders s sigs =
    { s with
      enc := (sampled s sigs).enc
      qPrimary := s.qPrimary ++ ((encMoves s sigs).take (s.cfg.primaryDepth - s.qPrimary.length)).map .encoderMove
      qDiag := s.qDiag ++ (encMoves s sigs).take (s.cfg.diagDepth - s.qDiag.length)
      overflow := s.overflow || decide (s.cfg.primaryDepth - s.qPrimary.length < (encMoves s sigs).length)
      trace := s.trace ++ if bridgeYield (encMoves s sigs) (sampled s sigs) then [.yieldRequest] else [] } := by
  unfold interruptEncoders
  dsimp only
  rw [bridge_eq]
  split
  · rfl
  · rw [List.append_nil]; rfl

section
variable {s : State} {sigs : U8} {i : EncIx}

theorem interruptEncoders_enc (s : State) (sigs : U8) (i : EncIx) : (interruptEncoders s sigs).enc[i] = encAfter s sigs i := by
  rw [interruptEncoders_eq]
  exact sampled_enc s sigs i

theorem exec_encIsr_of_decoded (hs : StepOf s .encIsr) (h : ∀ i, (encCell s sigs i).isSome = true) :
    exec (.encIsr sigs) s = .next (interruptEncoders s sigs) :=
  (asAgent_of_stepOf hs _).trans (if_pos (List.all_eq_true.mpr fun i _ => h i))

/-- What an encoder decodes is a cell of its profile's table. -/
theorem encCell_of_isSome (h : (encCell s sigs i).isSome = true) : encCell s sigs i =
    Table.cell (tableOf s.cfg s.cfg.profiles[i]) s.enc[i].st (sigs.extractLsb' (2 * i.val) 2) := by
  unfold encCell decodeCell at h ⊢
  split at h
  · rename_i hl
    exact if_pos hl
  · cases h

variable {dir : Direction} {next : StIx}

theorem encAfter_of_cell (h : encCell s sigs i = some (dir, next)) :
    encAfter s sigs i = recordHist { s.enc[i] with st := next } next (sigOf sigs i) dir s.tick := by
  simp only [encAfter, h]

/-- An encoder whose signal is the newest recorded one stores its next state alone (R150). -/
theorem encAfter_of_eq (h : encCell s sigs i = some (dir, next)) (heq : sigOf sigs i = s.enc[i].hist[0].sig) :
    encAfter s sigs i = { s.enc[i] with st := next } :=
  (encAfter_of_cell h).trans (recordHist_of_eq heq)

/-- An encoder whose signal has changed records it too (R150). -/
theorem encAfter_of_ne (h : encCell s sigs i = some (dir, next)) (hne : sigOf sigs i ≠ s.enc[i].hist[0].sig) :
    encAfter s sigs i =
      { st := next, lastChange := s.tick,
        hist := pushHist s.enc[i].hist { st := next, sig := sigOf sigs i, dir := dir, dt := s.tick - s.enc[i].lastChange } } :=
  (encAfter_of_cell h).trans (recordHist_of_ne hne)

end

/-- Settles O21: a legal state has a cell for every sample, so the interrupt completes, and `encAfter` is what it leaves of each encoder. -/
theorem encIsrSamplesEveryEncoder : Obligations.EncIsrSamplesEveryEncoder := by
  intro sigs s hs hw hl
  have hdec (i : EncIx) : (encCell s sigs i).isSome = true := by
    rw [encCell, decodeCell_of_legal (hl i)]
    exact tableOf_cell_isSome hw (hl i) _
  refine ⟨_, exec_encIsr_of_decoded hs hdec, by rw [interruptEncoders_eq], fun i => ?_⟩
  obtain ⟨⟨dir, next⟩, hcell⟩ := Option.isSome_iff_exists.mp (hdec i)
  refine ⟨dir, next, (encCell_of_isSome (hdec i)).symm.trans hcell, ?_⟩
  rw [interruptEncoders_enc]
  by_cases heq : sigOf sigs i = s.enc[i].hist[0].sig
  · rw [encAfter_of_eq hcell heq]
    exact ⟨rfl, fun _ => ⟨rfl, rfl⟩, fun hne => absurd heq hne⟩
  · rw [encAfter_of_ne hcell heq]
    exact ⟨rfl, fun h => absurd h heq, fun _ => ⟨rfl, rfl, pushHist_succ _ _⟩⟩

/-- Settles O22: the moves are those of `encMoves`, and what sending them does is what `bridge_eq` and `bridgeYield_iff` say. -/
theorem encIsrSendsItsMoves : Obligations.EncIsrSendsItsMoves := by
  intro sigs s t hs ht
  rcases execEncIsr_next ht with ⟨-, hasleep, -⟩ | ⟨-, hdec, rfl⟩
  · exact absurd (hs.1.2.symm.trans hasleep) nofun
  have hyield : bridgeYield (encMoves s sigs) (sampled s sigs) = true ↔ encMoves s sigs ≠ [] ∧ MeetsHeldReceiver s :=
    bridgeYield_iff _ (sampled s sigs)
  refine ⟨encMoves s sigs, encMoves_enc_nodup, encMoves_length_le, fun m => ?_, ?_⟩
  · rw [mem_encMoves_iff, encMove_eq_some_iff, encCell_of_isSome (hdec m.enc), eq_self, true_and]
  · rw [interruptEncoders_eq]
    refine ⟨rfl, rfl, rfl, fun h => ?_, fun h => ?_⟩
    · exact congrArg (s.trace ++ ·) (if_pos (hyield.mpr h))
    · exact (congrArg (s.trace ++ ·) (if_neg (mt hyield.mp h))).trans (List.append_nil _)

end Sys2Proof.Machine
end

section
/-! The serial bus arbiter (R210 to R240): BUS_ACQUIRE, BUS_TRANSCEIVE, BUS_RELEASE and BUS_COMPLETE, and who writes the owner. -/

namespace Sys2Proof.Machine

section
variable {s : State} {t : Nat} {c : TaskCtl}

/-! ### BUS_ACQUIRE -/

/-- Micro-step 0 of BUS_ACQUIRE (R210). -/
theorem exec_busAcquire_start {ms : U32} (h : AtStep s t (.busAcquire ms) 0 c) : exec (.busAcquire ms) s =
    if s.owner = none then .next (returned { s with owner := some t } t c (.okTok t))
    else if ms = 0 then .next (returned s t c .timeoutError)
    else .next (movedTo s t c 1) := by
  simp only [exec, execBusAcquire, asTask_of_atStep h, h.step_eq, finish_eq, goStep_eq, grantBus]

/-- The wait of BUS_ACQUIRE when the line does not take (expire) (R212). -/
theorem exec_busAcquire_wait {ms : U32} (h : AtStep s t (.busAcquire ms) 1 c) (hl : s.offer.late = false) :
    exec (.busAcquire ms) s =
      if s.owner = none then .next (returned { s with owner := some t } t c (.okTok t))
      else .next { s with task := s.task.set t c } := by
  simp only [exec, execBusAcquire, asTask_of_atStep h, h.step_eq, hl, finish_eq, holdTask_eq, grantBus, Bool.false_eq_true, if_false]

/-! ### A transfer, in any of its spellings -/

section
variable {i : Instr} {mine : Nat → Bool} {word : U32}

/-- R362: ownership is checked first, so this holds whatever the word. -/
theorem transceive_not_mine (h : AtStep s t i 0 c) (hm : mine t = false) :
    transceive i mine word s = .next (haltedWith { s with task := s.task.set t c } .transceiveWithoutOwnership) := by
  simp [transceive, asTask_of_atStep h, h.step_eq, hm, fatalTask_eq]

theorem transceive_reserved (h : AtStep s t i 0 c) (ho : s.owner = some t) (hm : mine t = true) (hw : reservedClear word = false) :
    transceive i mine word s = .refused .reservedWordBits := by
  simp [transceive, asTask_of_atStep h, h.step_eq, ho, hm, hw]

/-- The completion wait when the line does not take (timeout) (R221). -/
theorem exec_transceive_wait (h : AtStep s t i 1 c) (hi : isTransceive i = true) (hl : s.offer.late = false) : exec i s =
    if s.xfer = .done then .next (returned { s with xfer := .idle } t c (.okResp s.rxReg))
    else .next { s with task := s.task.set t c } := by
  obtain ⟨mine, word, he⟩ := exec_eq_transceive hi s
  simp only [he, transceive, asTask_of_atStep h, h.step_eq, hl, finish_eq, holdTask_eq, Bool.false_eq_true, if_false]

end

/-! ### BUS_RELEASE -/

/-- The only micro-step of BUS_RELEASE (R225). -/
theorem exec_busRelease_eq {tok : U32} {n : Nat} (h : AtStep s t (.busRelease tok) n c) : exec (.busRelease tok) s =
    if s.owner = some t ∧ tok.toNat = t then .next (returned { s with owner := none } t c .none)
    else .next (haltedWith { s with task := s.task.set t c } .busReleaseFailed) := by
  simp only [exec, execBusRelease, asTask_of_atStep h, isToken, decide_eq_true_eq, finish_eq, fatalTask_eq]

end

/-! ### The statements -/

/-- Settles O27: micro-step 0 and the wait are each the two tests that their equation lists; (expire) is `acquire_expire_returns`. -/
theorem busAcquireMicroSteps : Obligations.BusAcquireMicroSteps := by
  intro ms s t c
  refine ⟨fun h => ?start, fun h => ?wait⟩
  case start =>
    rw [exec_busAcquire_start h]
    exact ⟨fun ho => if_pos ho, fun ho hms => (if_neg ho).trans (if_pos hms), fun ho hms => (if_neg ho).trans (if_neg hms)⟩
  case wait =>
    exact ⟨acquire_expire_returns h, fun hl ho => (exec_busAcquire_wait h hl).trans (if_pos ho),
      fun hl ho => (exec_busAcquire_wait h hl).trans (if_neg ho)⟩

/-- Settles O28: `mine` is the test of the token, `reservedClear` that of the word. -/
theorem busTransceiveStart : Obligations.BusTransceiveStart := by
  intro tok word s t c h
  refine ⟨fun ho ht hw => ?_, fun ho ht hw => ?_, ?_⟩
  · exact transceive_start h ho (decide_eq_true ht) (decide_eq_true hw)
  · exact transceive_reserved h ho (decide_eq_true ht) (decide_eq_false hw)
  · rintro (ho | ht)
    · exact transceive_not_owner h ho
    · exact transceive_not_mine h (decide_eq_false ht)

/-- Settles O29: (timeout) is `transfer_timeout_returns`; without it the wait asks only whether the transfer is done. -/
theorem busTransceiveWait : Obligations.BusTransceiveWait := by
  intro i s t c hi h
  refine ⟨fun hl hx => ?_, fun hl hx => ?_, fun hl hx => ?_, fun hl hx => ?_⟩
  · rw [exec_transceive_wait h hi hl, if_pos hx]
  · rw [transfer_timeout_returns h hi hl, if_pos hx]
  · rw [transfer_timeout_returns h hi hl, if_neg hx]
  · rw [exec_transceive_wait h hi hl, if_neg hx]

/-- Settles O30. -/
theorem busReleaseFreesTheBus : Obligations.BusReleaseFreesTheBus := by
  intro tok s t c h
  rw [exec_busRelease_eq h]
  exact ⟨fun ho ht => if_pos ⟨ho, ht⟩, fun hn => if_neg (not_and_or.mpr hn)⟩

/-- Settles O31: one case for each state of the transfer slot. -/
theorem busCompleteDelivers : Obligations.BusCompleteDelivers := by
  intro resp s h
  rw [show exec (.busComplete resp) s = _ from asAgent_of_stepOf h _]
  refine ⟨fun hx => ?_, fun hx => ?_, ?_⟩
  · rw [hx]
  · rw [hx]
  · rintro (hx | hx) <;> rw [hx]

/-- Settles O33: by `Did.owner_writer` the step is one of the two operations, and of all they can do one outcome each writes the owner. -/
theorem ownerChangesOnlyByAcquireAndRelease : Obligations.OwnerChangesOnlyByAcquireAndRelease := by
  intro i s u h hr hne
  rcases (exec_did h).owner_writer hr with heq | ⟨ms, rfl⟩ | ⟨tok, rfl⟩
  · exact absurd heq hne
  · left
    rcases execBusAcquire_next h with ⟨-, -, rfl⟩ | ⟨t, n, c, hat, ⟨ho, rfl⟩ | rfl | ⟨-, -, rfl⟩ | ⟨-, -, rfl⟩⟩
    · exact absurd rfl hne
    · exact ⟨ms, t, rfl, hat.1.2, ho, rfl⟩
    · exact absurd rfl hne
    · exact absurd rfl hne
    · exact absurd rfl hne
  · right
    rcases execBusRelease_next h with ⟨-, -, rfl⟩ | ⟨t, n, c, hat, ⟨ho, ht, rfl⟩ | ⟨-, rfl⟩⟩
    · exact absurd rfl hne
    · exact ⟨tok, t, rfl, ht, hat.1.2, ho, rfl⟩
    · exact absurd rfl hne

end Sys2Proof.Machine
end

section
/-! Whole task operations without interruption (R71, R123): from one micro-step to the next when each line lets the same task go on. -/

namespace Sys2Proof.Machine

/-- The line in which the agent of the present step goes on: its task takes the next micro-step. -/
abbrev goOn (s : State) : Line := { offer := s.offer, body := .resume }

/-- The present step of `i` from `s` and the `n` steps after it end in `u`. -/
def EndsIn (i : Instr) (n : Nat) (s u : State) : Prop := ∃ s₁, exec i s = .next s₁ ∧ steps n s₁ = .next u

/-- The block `s` with task `t` at control state `c` and the lines `rest` to come. -/
def State.leftAt (s : State) (t : Nat) (c : TaskCtl) (rest : List Line) : State := { s with task := s.task.set t c, schedule := rest }

@[simp] theorem leftAt_leftAt (s : State) (t : Nat) (c c' : TaskCtl) (rest rest' : List Line) :
    (s.leftAt t c rest).leftAt t c' rest' = s.leftAt t c' rest' := by
  simp [State.leftAt]

section
variable {s s' : State} {t k n : Nat} {c c' : TaskCtl} {i : Instr} {rest : List Line}

/-- Lines that let an idle task go on only leave the schedule. -/
theorem steps_idle (hr : Running s) (ha : s.offer.agent = .task t) (hc : s.task[t]? = some c) (hop : c.op = none)
    (hs : s.schedule = List.replicate n (goOn s) ++ rest) : steps n s = .next { s with schedule := rest } := by
  induction n generalizing s with
  | zero =>
    have hs : s.schedule = rest := hs
    rw [← hs]
    rfl
  | succ n ih =>
    have hstep := step_of_instrOf_none hr.1 hs ((instrOf_of_resume rfl ha hc).trans (congrArg _ hop))
    have hrest := ih (s := s.take (goOn s) (List.replicate n (goOn s) ++ rest)) hr ha hc rfl
    exact (steps_succ_of_next hstep n).trans hrest

/-- A micro-step that changed the block to `s'` and left the task in its operation at micro-step `k'`: the next line takes that one, so the
rest of the run may be described from there. -/
theorem EndsIn.of_goesOn {k' : Nat} (h : AtStep s t i k c) (hx : exec i s = .next (s'.setTask t c')) (hop : c'.op = some i)
    (hk : c'.step = k') (hr : StepOf s' (.task t)) (ht : s'.task = s.task) (hs : s'.schedule = goOn s' :: rest) :
    AtStep (s'.leftAt t c' rest) t i k' c' ∧ ∀ {n u}, EndsIn i n (s'.leftAt t c' rest) u → EndsIn i (n + 1) s u := by
  have hc : (s'.setTask t c').task[t]? = some c' := List.getElem?_set_self (ht ▸ h.lt)
  have hstep : step (s'.setTask t c') = exec i (s'.leftAt t c' rest) :=
    step_of_resume (s := s'.setTask t c') hr.1.1 hs rfl hr.2 hc hop
  refine ⟨⟨hr, c', hc, .inr ⟨hop, hk, rfl⟩⟩, fun ⟨s₁, hexec, hsteps⟩ => ?_⟩
  exact ⟨_, hx, (steps_succ_of_next (hstep.trans hexec) _).trans hsteps⟩

/-- A micro-step that changed the block to `s'` and returned: the lines that follow find the task idle. -/
theorem EndsIn.of_returns {r : Result} (h : AtStep s t i k c) (hx : exec i s = .next (returned s' t c r)) (hr : StepOf s' (.task t))
    (ht : s'.task = s.task) (hs : s'.schedule = List.replicate n (goOn s') ++ rest) :
    EndsIn i n s (s'.leftAt t { c with op := none, result := r } rest) := by
  have hc : (returned s' t c r).task[t]? = some { c with op := none, result := r } := List.getElem?_set_self (ht ▸ h.lt)
  exact ⟨_, hx, steps_idle (s := returned s' t c r) hr.1 hr.2 hc rfl hs⟩

end

end Sys2Proof.Machine
end

section
/-! The audio sample engine (R250 to R270): AUDIO_TICK, SET_MODE and SET_VOLUME. -/

namespace Sys2Proof.Machine

/-! ### The clamp of R13 -/

theorem clamp_eq_max_min {lo hi : Nat} (h : lo ≤ hi) (x : Nat) : clamp x lo hi = max lo (min hi x) := by
  unfold clamp
  split
  · omega
  · split <;> omega

theorem clamp_of_mem {x lo hi : Nat} (hl : lo ≤ x) (hh : x ≤ hi) : clamp x lo hi = x := by
  rw [clamp, if_neg (Nat.not_lt.mpr hl), if_neg (Nat.not_lt.mpr hh)]

/-! ### The values of one sample (R253 to R256) -/

/-- Half the 13-bit sum fits the DAC. -/
theorem passthroughDac_toNat (adc0 adc1 : U12) :
    (BitVec.ofNat 12 (passthroughDac (adcSum adc0 adc1))).toNat = (adc0.toNat + adc1.toNat) / 2 := by
  have h0 := adc0.isLt
  have h1 := adc1.isLt
  rw [BitVec.toNat_ofNat, passthroughDac, adcSum]
  exact Nat.mod_eq_of_lt (by omega)

/-- The duty's offset from the midpoint, before the clamp (R256). -/
def dutyOffset (period : Nat) (vol : U8) : Nat := toneOffset vol * (period / 2 - 1) / dacHalf

theorem toneOffset_le (vol : U8) : toneOffset vol ≤ dacHalf := by
  have h := vol.isLt
  unfold toneOffset dacHalf
  omega

/-- The scaling takes offsets up to the half scale to offsets up to the half period. -/
theorem dutyOffset_le (period : Nat) (vol : U8) : dutyOffset period vol ≤ period / 2 - 1 :=
  Nat.div_le_of_le_mul (Nat.mul_le_mul_right _ (toneOffset_le vol))

/-- The midpoint plus or minus the offset is a 12-bit value. -/
theorem toneDac_toNat (vol : U8) (ph : Bool) : (BitVec.ofNat 12 (toneDac vol ph)).toNat = toneDac vol ph := by
  have h := toneOffset_le vol
  unfold dacHalf at h
  rw [BitVec.toNat_ofNat]
  refine Nat.mod_eq_of_lt ?_
  unfold toneDac dacMid
  split <;> omega

theorem toneDuty_eq (period : Nat) (vol : U8) (ph : Bool) : toneDuty period vol ph =
    clamp (if ph then period / 2 + dutyOffset period vol else period / 2 - dutyOffset period vol) 1 (period - 1) := rfl

/-- R256: the value that the duty's clamp is given lies in the open interval already. -/
theorem toneDuty_unclamped {period : Nat} (h : 4 ≤ period) (vol : U8) (ph : Bool) : toneDuty period vol ph =
    if ph then period / 2 + dutyOffset period vol else period / 2 - dutyOffset period vol := by
  have hoff := dutyOffset_le period vol
  rw [toneDuty_eq]
  refine clamp_of_mem ?low ?high
  case low => split <;> omega
  case high => split <;> omega

theorem toneDuty_range {period : Nat} (h : 4 ≤ period) (vol : U8) (ph : Bool) :
    1 ≤ toneDuty period vol ph ∧ toneDuty period vol ph ≤ period - 1 := clamp_mem (by omega) _

/-! ### AUDIO_TICK (R250 to R252) -/

section
variable {s : State} {adc0 adc1 : U12}

theorem exec_audioTick_expected (h : StepOf s .audioIsr) :
    exec (.audioTick .expected adc0 adc1) s = .next (audioSample adc0 adc1 s) :=
  (asAgent_of_stepOf h _).trans (if_pos rfl)

theorem exec_audioTick_mismatch {src : AudioSrc} (h : StepOf s .audioIsr) (hs : src ≠ .expected) :
    exec (.audioTick src adc0 adc1) s = .next (haltedWith s .audioSourceMismatch) :=
  (asAgent_of_stepOf h _).trans (if_neg hs)

theorem audioSample_of_off (h : s.mode = .off) : audioSample adc0 adc1 s = s := by
  simp only [audioSample, h]

theorem audioSample_of_passthrough (h : s.mode = .adcPassthrough) : audioSample adc0 adc1 s =
    writeOutputs (passthroughDac (adcSum adc0 adc1)) (passthroughDuty s.cfg.pwmPeriod (adcSum adc0 adc1)) s := by
  simp only [audioSample, h, passthrough]

theorem audioSample_of_tone (h : s.mode = .toneValue ∨ s.mode = .toneFrequency) : audioSample adc0 adc1 s =
    writeOutputs (toneDac s.volume s.tone.phase) (toneDuty s.cfg.pwmPeriod s.volume s.tone.phase) s := by
  rcases h with h | h <;> simp only [audioSample, h, toneSample]

/-- A sample writes nothing, or the two outputs with a duty that the clamp has made (R252, R254, R256). -/
theorem audioSample_writes_clamped (adc0 adc1 : U12) (s : State) : audioSample adc0 adc1 s = s ∨
    ∃ dac x, audioSample adc0 adc1 s = writeOutputs dac (clamp x 1 (s.cfg.pwmPeriod - 1)) s := by
  cases h : s.mode with
  | off => exact .inl (audioSample_of_off h)
  | adcPassthrough => exact .inr ⟨_, _, audioSample_of_passthrough h⟩
  | toneValue => exact .inr ⟨_, _, audioSample_of_tone (.inl h)⟩
  | toneFrequency => exact .inr ⟨_, _, audioSample_of_tone (.inr h)⟩

end

/-- Settles O35: the source is checked before the mode is looked at. -/
theorem audioTickMismatchHaltsAndOffIsSilent : Obligations.AudioTickMismatchHaltsAndOffIsSilent := by
  intro src adc0 adc1 s h
  refine ⟨exec_audioTick_mismatch h, ?_⟩
  rintro rfl hoff
  rw [exec_audioTick_expected h, audioSample_of_off hoff]

/-- Settles O36: half the sum fits the DAC's twelve bits, and the clamp of R13 is a maximum of a minimum. -/
theorem audioTickPassesTheSumThrough : Obligations.AudioTickPassesTheSumThrough := by
  intro adc0 adc1 s h hm hp
  refine ⟨_, _, ?_, passthroughDac_toNat adc0 adc1, clamp_eq_max_min (by omega) _⟩
  rw [exec_audioTick_expected h, audioSample_of_passthrough hm, writeOutputs_eq]
  rfl

/-- Settles O37: the offsets stay below the half scale and the half period, so neither the DAC's twelve bits nor the clamp change a value. -/
theorem audioTickWritesTheToneSample : Obligations.AudioTickWritesTheToneSample := by
  intro adc0 adc1 s h hm hp
  have hexec : exec (.audioTick .expected adc0 adc1) s = _ := exec_audioTick_expected h
  rw [audioSample_of_tone hm, writeOutputs_eq] at hexec
  have hduty := toneDuty_range hp s.volume s.tone.phase
  refine ⟨_, _, toneOffset s.volume, dutyOffset s.cfg.pwmPeriod s.volume, hexec, rfl, toneOffset_le _, rfl, dutyOffset_le _ _,
    fun hph => ?up, fun hph => ?down, hduty⟩
  all_goals
    rw [toneDac_toNat, toneDuty_unclamped hp, hph]
    exact ⟨rfl, rfl⟩

/-- Settles O38: the only duty write is of a clamped value. -/
theorem dutyWritesStayInTheOpenInterval : Obligations.DutyWritesStayInTheOpenInterval := by
  intro src adc0 adc1 s t hp h
  rcases execAudioTick_next h with ⟨-, -, rfl⟩ | ⟨-, ⟨-, rfl⟩ | ⟨-, rfl⟩⟩
  · exact ⟨.inl rfl, [], by simp⟩
  · rcases audioSample_writes_clamped adc0 adc1 s with hw | ⟨dac, x, hw⟩
    · rw [hw]
      exact ⟨.inl rfl, [], by simp⟩
    · have hx := clamp_mem (show 1 ≤ s.cfg.pwmPeriod - 1 by omega) x
      rw [hw, writeOutputs_eq]
      exact ⟨.inr hx, _, rfl, by simpa using hx⟩
  · exact ⟨.inl rfl, [.diagSignal .audioSourceMismatch], rfl, by simp⟩

/-! ### SET_VOLUME (R270) -/

/-- Settles O41: its one micro-step writes the volume and returns. -/
theorem setVolumeWritesTheVolume : Obligations.SetVolumeWritesTheVolume := by
  intro vol s t c h
  simp only [exec, execSetVolume, asTask_of_atStep h, finish_eq]

/-! ### The micro-steps of SET_MODE (R260 to R263) -/

section
variable {new : AudioMode} {s : State} {t : Nat} {c : TaskCtl}

theorem exec_setMode_start (h : AtStep s t (.setMode new) 0 c) : exec (.setMode new) s =
    if new = s.mode then .next (returned s t c .none) else .next (movedTo s t c 1) := by
  simp only [exec, execSetMode, asTask_of_atStep h, h.step_eq, finish_eq, goStep_eq]

/-- A micro-step of the nested SET_FREQUENCY(0) that goes on (R261). -/
theorem exec_setMode_nested {n : Nat} (h : AtStep s t (.setMode new) 1 c) (hn : freqNext 0 c.locals.nested s = some n) :
    exec (.setMode new) s =
      .next ((freqEffect 0 c.locals.nested s).setTask t { c with locals := { c.locals with nested := n } }) := by
  simp only [exec, execSetMode, asTask_of_atStep h, h.step_eq, hn]

/-- A micro-step of the nested SET_FREQUENCY(0) that returns to SET_MODE (R261; notes/assumptions/18.md). -/
theorem exec_setMode_nestedReturn (h : AtStep s t (.setMode new) 1 c) (hn : freqNext 0 c.locals.nested s = none) :
    exec (.setMode new) s = .next (movedTo (freqEffect 0 c.locals.nested s) t c 2) := by
  simp only [exec, execSetMode, asTask_of_atStep h, h.step_eq, hn, goStep_eq]

theorem exec_setMode_modeWrite (h : AtStep s t (.setMode new) 2 c) :
    exec (.setMode new) s = .next (movedTo { s with mode := new } t c 3) := by
  simp only [exec, execSetMode, asTask_of_atStep h, h.step_eq, goStep_eq]

theorem exec_setMode_enable (h : AtStep s t (.setMode new) 3 c) :
    exec (.setMode new) s = .next (returned (applyEnable new s) t c .none) := by
  simp only [exec, execSetMode, asTask_of_atStep h, h.step_eq, finish_eq]

end

/-- Settles O39: each micro-step with what SET_FREQUENCY(0) does at the micro-step its call has reached. -/
theorem setModeMicroSteps : Obligations.SetModeMicroSteps := by
  intro new s t c
  refine ⟨fun h hm => ?same, fun h hm => ?start, fun h hn hf => ?guard, fun h hn hf => ?call, fun h hn => ?stop, fun h hn => ?record,
    exec_setMode_modeWrite, fun h hoff => ?disable, fun h hoff => ?enable⟩
  case same => exact (exec_setMode_start h).trans (if_pos hm)
  case start => exact (exec_setMode_start h).trans (if_neg hm)
  case guard =>
    have hret := exec_setMode_nestedReturn h (by rw [hn]; exact if_pos hf.symm)
    rwa [hn] at hret
  case call =>
    have hgo := exec_setMode_nested (n := 1) h (by rw [hn]; exact if_neg (Ne.symm hf))
    rwa [hn] at hgo
  case stop =>
    have hgo := exec_setMode_nested (n := 2) h (by rw [hn]; rfl)
    rw [hn] at hgo
    exact ⟨s.drawBit 0, hgo⟩
  case record =>
    have hret := exec_setMode_nestedReturn h (by rw [hn]; rfl)
    rwa [hn] at hret
  case disable =>
    rw [exec_setMode_enable h, applyEnable_eq, hoff]
    rfl
  case enable =>
    rw [exec_setMode_enable h, applyEnable_eq, if_neg hoff, decide_eq_true hoff]

/-! ### A whole SET_MODE without interruption (R123, R265) -/

/-- SET_FREQUENCY reads neither a task's control state nor the schedule. -/
theorem freqEffect_leftAt (hz : U32) (k : Nat) (s : State) (t : Nat) (c : TaskCtl) (rest : List Line) :
    freqEffect hz k (s.leftAt t c rest) = (freqEffect hz k s).leftAt t c rest := by
  unfold freqEffect
  split
  · rfl
  · rfl
  · split <;> rfl

/-- The block after a whole SET_FREQUENCY(0) (R290 to R292): with the frequency 0 already, as it was. -/
def silenced (s : State) : State := if s.tone.freq = 0 then s else freqEffect 0 2 (freqEffect 0 1 s)

theorem silenced_of_silent {s : State} (h : s.tone.freq = 0) : silenced s = s := if_pos h

theorem silenced_of_sounding {s : State} (h : s.tone.freq ≠ 0) : silenced s =
    { s with tone := { s.tone with freq := 0, running := false, phase := s.drawBit 0 }, trace := s.trace ++ [.timerStop],
             drawCount := s.drawCount + 1 } := if_neg h

theorem silenced_leftAt (s : State) (t : Nat) (c : TaskCtl) (rest : List Line) :
    silenced (s.leftAt t c rest) = (silenced s).leftAt t c rest := by
  unfold silenced
  rw [freqEffect_leftAt, freqEffect_leftAt]
  exact (apply_ite (State.leftAt · t c rest) (s.tone.freq = 0) _ _).symm

/-- The block after the mode write and the output enable (R262, R263). -/
def modeSet (new : AudioMode) (s : State) : State := applyEnable new { s with mode := new }

theorem modeSet_leftAt (new : AudioMode) (s : State) (t : Nat) (c : TaskCtl) (rest : List Line) :
    modeSet new (s.leftAt t c rest) = (modeSet new s).leftAt t c rest := by
  simp only [modeSet, applyEnable_eq, State.leftAt]

section
variable {new : AudioMode} {s : State} {t n : Nat} {c : TaskCtl} {rest : List Line}

/-- After the enable the operation returns, and the lines left over change nothing (R262, R263). -/
theorem setMode_endsIn_from_modeWrite (h : AtStep s t (.setMode new) 2 c) (hs : s.schedule = List.replicate (n + 1) (goOn s) ++ rest) :
    ∃ c', c'.op = none ∧ EndsIn (.setMode new) (n + 1) s ((modeSet new s).leftAt t c' rest) := by
  obtain ⟨hat, hends⟩ := EndsIn.of_goesOn (s' := { s with mode := new }) (c' := { c with step := 3 }) h (exec_setMode_modeWrite h)
    h.op_eq rfl h.1 rfl hs
  have henable := exec_setMode_enable hat
  rw [applyEnable_eq] at henable
  have hrest := EndsIn.of_returns (n := n) (rest := rest) hat henable h.1 rfl rfl
  refine ⟨{ c with op := none, step := 3, result := .none }, rfl, hends ?_⟩
  simpa [modeSet, applyEnable_eq, State.leftAt] using hrest

/-- The nested call returns, so the mode write is next. -/
theorem setMode_endsIn_from_nestedReturn (h : AtStep s t (.setMode new) 1 c) (hn : freqNext 0 c.locals.nested s = none)
    (hs : s.schedule = List.replicate (n + 2) (goOn s) ++ rest) :
    ∃ c', c'.op = none ∧ EndsIn (.setMode new) (n + 2) s ((modeSet new (freqEffect 0 c.locals.nested s)).leftAt t c' rest) := by
  have hx := exec_setMode_nestedReturn h hn
  obtain ⟨tone, es, draws, he⟩ := freqEffect_frame 0 c.locals.nested s
  rw [he] at hx ⊢
  obtain ⟨hat, hends⟩ := EndsIn.of_goesOn (c' := { c with step := 2 }) h hx h.op_eq rfl h.1 rfl hs
  obtain ⟨c', hop, hrest⟩ := setMode_endsIn_from_modeWrite hat rfl
  rw [modeSet_leftAt, leftAt_leftAt] at hrest
  exact ⟨c', hop, hends hrest⟩

/-- The nested call stops the timer, then records frequency 0 and returns (R291, R292). -/
theorem setMode_endsIn_from_stop (h : AtStep s t (.setMode new) 1 c) (hc : c.locals.nested = 1)
    (hs : s.schedule = List.replicate (n + 3) (goOn s) ++ rest) :
    ∃ c', c'.op = none ∧ EndsIn (.setMode new) (n + 3) s ((modeSet new (freqEffect 0 2 (freqEffect 0 1 s))).leftAt t c' rest) := by
  have hstop := exec_setMode_nested (n := 2) h (by rw [hc]; rfl)
  rw [hc] at hstop
  obtain ⟨hat, hends⟩ := EndsIn.of_goesOn (s' := freqEffect 0 1 s) h hstop h.op_eq h.step_eq h.1 rfl hs
  obtain ⟨c', hop, hrest⟩ := setMode_endsIn_from_nestedReturn hat rfl rfl
  rw [freqEffect_leftAt, modeSet_leftAt, leftAt_leftAt] at hrest
  exact ⟨c', hop, hends hrest⟩

/-- The nested call takes its own micro-steps 1 and 2 exactly when the frequency is not 0 yet (R290). -/
theorem setMode_endsIn_from_call (h : AtStep s t (.setMode new) 1 c) (hc : c.locals.nested = 0)
    (hs : s.schedule = List.replicate (n + 4) (goOn s) ++ rest) :
    ∃ c', c'.op = none ∧ EndsIn (.setMode new) (n + 4) s ((modeSet new (silenced s)).leftAt t c' rest) := by
  by_cases hf : s.tone.freq = 0
  · have hret := setMode_endsIn_from_nestedReturn (n := n + 2) h (by rw [hc]; exact if_pos hf.symm) hs
    rw [hc] at hret
    rwa [silenced_of_silent hf]
  · have hcall := exec_setMode_nested (n := 1) h (by rw [hc]; exact if_neg (Ne.symm hf))
    rw [hc] at hcall
    obtain ⟨hat, hends⟩ := EndsIn.of_goesOn (s' := s) h hcall h.op_eq h.step_eq h.1 rfl hs
    obtain ⟨c', hop, hrest⟩ := setMode_endsIn_from_stop hat rfl rfl
    rw [freqEffect_leftAt, freqEffect_leftAt, modeSet_leftAt, leftAt_leftAt] at hrest
    rw [silenced, if_neg hf]
    exact ⟨c', hop, hends hrest⟩

/-- SET_MODE to another mode from its start: first the tone is silenced, then the mode and the enable are written (R260, R265). -/
theorem setMode_endsIn (h : AtStep s t (.setMode new) 0 c) (hm : new ≠ s.mode) (hc : c.locals.nested = 0)
    (hs : s.schedule = List.replicate 5 (goOn s) ++ rest) :
    ∃ c', c'.op = none ∧ EndsIn (.setMode new) 5 s ((modeSet new (silenced s)).leftAt t c' rest) := by
  have hx := (exec_setMode_start h).trans (if_neg hm)
  obtain ⟨hat, hends⟩ := EndsIn.of_goesOn (s' := s) (c' := { c with step := 1 }) h hx h.op_eq rfl h.1 rfl hs
  obtain ⟨c', hop, hrest⟩ := setMode_endsIn_from_call (n := 0) hat hc rfl
  rw [silenced_leftAt, modeSet_leftAt, leftAt_leftAt] at hrest
  exact ⟨c', hop, hends hrest⟩

end

/-- Settles O40: the first line issues the operation, and of the five that go on, two find the task idle when the tone was silent. -/
theorem uninterruptedSetModeZeroesTheTone : Obligations.UninterruptedSetModeZeroesTheTone := by
  intro new s t c o rest hr ho hc hop hm hs
  have hdec : decode s.cfg.channels (encode s.cfg.channels (.setMode new)) = .ok (.setMode new) :=
    decode_pack (by decide) rfl (modeCode_lt new) (by rw [Nat.mod_eq_of_lt (modeCode_lt new), modeOf_modeCode])
  have hstep := step_of_instrOf_some hr.1 hs (instrOf_of_issue rfl hdec)
  have hat : AtStep (s.take { offer := o, body := .issue (encode s.cfg.channels (.setMode new)) }
      (List.replicate 5 { offer := o, body := .resume } ++ rest)) t (.setMode new) 0 (c.start _) := atStep_take_start hr ho hc hop
  obtain ⟨c', hop', s₁, hx, hsteps⟩ := setMode_endsIn hat hm rfl rfl
  refine ⟨_, c', (steps_succ_of_next (hstep.trans hx) 5).trans hsteps, ?_⟩
  by_cases hf : s.tone.freq = 0
  · rw [silenced_of_silent (s := s.take _ _) hf, modeSet, applyEnable_eq, if_pos hf, List.append_nil]
    exact ⟨rfl, hop', rfl, hf, fun h => absurd hf h, fun _ => rfl, rfl, rfl, rfl⟩
  · rw [silenced_of_sounding (s := s.take _ _) hf, modeSet, applyEnable_eq, if_neg hf]
    exact ⟨rfl, hop', rfl, rfl, fun _ => rfl, fun h => absurd h hf, rfl, rfl, rfl⟩

end Sys2Proof.Machine
end

section
/-! The reference tone generator (R290 to R302): the divisor search, SET_FREQUENCY, TONE_BEST_DIVISOR and TONE_EDGE. -/

namespace Sys2Proof.Machine

/-! ### The order of the search (R293)

The search prefers the smaller error, then the smaller divisor, then the smaller compare value: the lexicographic order of `searchKey`. -/

/-- What the search minimises: the error of a pair, then its divisor, then its compare value. -/
def searchKey (clk hz : Nat) (p : Nat × Nat) : Nat ×ₗ (Nat ×ₗ Nat) := toLex (periodError clk hz p.1 p.2, toLex p)

section
variable {clk hz cmpMax d k c : Nat} {p q : Nat × Nat}

theorem searchKey_le_iff : searchKey clk hz p ≤ searchKey clk hz q ↔
    periodError clk hz p.1 p.2 < periodError clk hz q.1 q.2 ∨
      (periodError clk hz p.1 p.2 = periodError clk hz q.1 q.2 ∧ toLex p ≤ toLex q) := Prod.Lex.toLex_le_toLex

/-- With one divisor the errors decide, and on ties the compare values. -/
theorem searchKey_le_of_nearer (h : periodError clk hz d c < periodError clk hz d k ∨
    (periodError clk hz d c = periodError clk hz d k ∧ c ≤ k)) : searchKey clk hz (d, c) ≤ searchKey clk hz (d, k) :=
  searchKey_le_iff.mpr (h.imp_right fun ⟨he, hk⟩ => ⟨he, Prod.Lex.toLex_le_toLex.mpr (.inr ⟨rfl, hk⟩)⟩)

/-- As long as the period is no longer than wanted, a greater compare value is nearer. -/
theorem searchKey_le_of_below (hm : 0 < hz * d) (hk : k ≤ c) (hc : hz * d * c ≤ clk) :
    searchKey clk hz (d, c) ≤ searchKey clk hz (d, k) := by
  rcases hk.eq_or_lt with rfl | hk
  · exact le_rfl
  · have hlt : hz * d * k < hz * d * c := Nat.mul_lt_mul_of_pos_left hk hm
    refine searchKey_le_of_nearer (.inl ?_)
    unfold periodError
    omega

/-- Once the period is as long as wanted, a smaller compare value is no farther. -/
theorem searchKey_le_of_above (hk : c ≤ k) (hc : clk ≤ hz * d * c) : searchKey clk hz (d, c) ≤ searchKey clk hz (d, k) := by
  have hle : hz * d * c ≤ hz * d * k := Nat.mul_le_mul_left _ hk
  refine searchKey_le_of_nearer ?_
  unfold periodError
  omega

/-! ### What the search keeps -/

/-- What the search keeps of an earlier and a later pair: the later one only for a smaller error. -/
def keptPair (clk hz : Nat) (p q : Nat × Nat) : Nat × Nat :=
  if periodError clk hz q.1 q.2 < periodError clk hz p.1 p.2 then q else p

theorem keptPair_eq_or (clk hz : Nat) (p q : Nat × Nat) : keptPair clk hz p q = p ∨ keptPair clk hz p q = q :=
  (ite_eq_or_eq _ q p).symm

theorem searchKey_keptPair_le_left (clk hz : Nat) (p q : Nat × Nat) : searchKey clk hz (keptPair clk hz p q) ≤ searchKey clk hz p := by
  unfold keptPair
  split
  · exact searchKey_le_iff.mpr (.inl ‹_›)
  · exact le_rfl

/-- The earlier pair is kept on equal errors, so it has to come first in the order of ties too. -/
theorem searchKey_keptPair_le_right (h : toLex p ≤ toLex q) : searchKey clk hz (keptPair clk hz p q) ≤ searchKey clk hz q := by
  unfold keptPair
  split
  · exact le_rfl
  · exact searchKey_le_iff.mpr ((Nat.not_lt.mp ‹_›).lt_or_eq.imp_right fun he => ⟨he, h⟩)

/-- Of three pairs the first of least error is kept, in whichever order they are weighed. -/
theorem keptPair_assoc (clk hz : Nat) (p q r : Nat × Nat) :
    keptPair clk hz (keptPair clk hz p q) r = keptPair clk hz p (keptPair clk hz q r) := by
  unfold keptPair
  grind

theorem bestOf_cons {ps : List (Nat × Nat)} (h : bestOf clk hz ps = some q) (p : Nat × Nat) :
    bestOf clk hz (p :: ps) = some (keptPair clk hz p q) := by
  rw [bestOf, h]
  exact (apply_ite some _ q p).symm

/-! ### The best pair of one divisor -/

/-- The two candidates of divisor `d`. -/
def candidatesOf (clk cmpMax hz d : Nat) : List (Nat × Nat) :=
  [(d, clamp (clk / (d * hz)) 2 cmpMax), (d, clamp (clk / (d * hz) + 1) 2 cmpMax)]

theorem divisorCandidates_eq (clk cmpMax hz : Nat) (divs : List Nat) :
    divisorCandidates clk cmpMax divs hz = (divs.insertionSort (· ≤ ·)).flatMap (candidatesOf clk cmpMax hz) := rfl

/-- The better of divisor `d`'s two candidates. -/
def bestFor (clk cmpMax hz d : Nat) : Nat × Nat :=
  keptPair clk hz (d, clamp (clk / (d * hz)) 2 cmpMax) (d, clamp (clk / (d * hz) + 1) 2 cmpMax)

theorem bestOf_candidatesOf (clk cmpMax hz d : Nat) : bestOf clk hz (candidatesOf clk cmpMax hz d) = some (bestFor clk cmpMax hz d) :=
  bestOf_cons rfl _

/-- The search over a divisor's candidates and what follows them weighs that divisor's best against the best of the rest. -/
theorem bestOf_candidatesOf_append {ps : List (Nat × Nat)} (h : bestOf clk hz ps = some q) (d : Nat) :
    bestOf clk hz (candidatesOf clk cmpMax hz d ++ ps) = some (keptPair clk hz (bestFor clk cmpMax hz d) q) :=
  (bestOf_cons (bestOf_cons h _) _).trans (congrArg some (keptPair_assoc clk hz _ _ q).symm)

/-- The pair is one the timer has with these divisors (R60). -/
def TimerPair (cmpMax : Nat) (divs : List Nat) (p : Nat × Nat) : Prop := p.1 ∈ divs ∧ 2 ≤ p.2 ∧ p.2 ≤ cmpMax

/-- The pair is the first of all the timer's pairs in the order of the search. -/
structure IsBest (clk hz cmpMax : Nat) (divs : List Nat) (p : Nat × Nat) : Prop where
  timerPair : TimerPair cmpMax divs p
  least : ∀ q, TimerPair cmpMax divs q → searchKey clk hz p ≤ searchKey clk hz q

theorem TimerPair.of_kept {divs : List Nat} (hp : TimerPair cmpMax divs p) (hq : TimerPair cmpMax divs q) :
    TimerPair cmpMax divs (keptPair clk hz p q) := by
  rcases keptPair_eq_or clk hz p q with h | h
  · rwa [h]
  · rwa [h]

/-- The compare values on either side of the wanted period are the best of their divisor: the error grows away from it both ways. -/
theorem isBest_bestFor (hm : 0 < hz * d) (hc : 2 ≤ cmpMax) : IsBest clk hz cmpMax [d] (bestFor clk cmpMax hz d) := by
  unfold bestFor
  have hfloor : hz * d * (clk / (d * hz)) ≤ clk := Nat.mul_comm hz d ▸ Nat.mul_div_le clk (d * hz)
  have hnext : clk < hz * d * (clk / (d * hz) + 1) := Nat.mul_comm hz d ▸ Nat.lt_mul_div_succ clk (Nat.mul_comm hz d ▸ hm)
  generalize clk / (d * hz) = x at hfloor hnext ⊢
  have hfirst := clamp_eq_max_min hc x
  have hsecond := clamp_eq_max_min hc (x + 1)
  refine ⟨TimerPair.of_kept ⟨List.mem_singleton_self d, clamp_mem hc _⟩ ⟨List.mem_singleton_self d, clamp_mem hc _⟩, ?least⟩
  case least =>
    rintro ⟨d', k⟩ ⟨hd', hlow, hhigh⟩
    obtain rfl := List.mem_singleton.mp hd'
    rcases Nat.lt_or_ge x k with hk | hk
    · have horder : toLex (d', clamp x 2 cmpMax) ≤ toLex (d', clamp (x + 1) 2 cmpMax) :=
        Prod.Lex.toLex_le_toLex.mpr (.inr ⟨rfl, by omega⟩)
      have habove : clk ≤ hz * d' * clamp (x + 1) 2 cmpMax := hnext.le.trans (Nat.mul_le_mul_left _ (by omega))
      exact (searchKey_keptPair_le_right horder).trans (searchKey_le_of_above (by omega) habove)
    · have hbelow : hz * d' * clamp x 2 cmpMax ≤ clk := (Nat.mul_le_mul_left _ (by omega)).trans hfloor
      exact (searchKey_keptPair_le_left clk hz _ _).trans (searchKey_le_of_below hm (by omega) hbelow)

/-- The best of a first divisor, weighed against the best of divisors that are no smaller, is the best of all. A divisor that comes again brings
the same pairs again. -/
theorem IsBest.cons {ds : List Nat} (hp : IsBest clk hz cmpMax [d] p) (hq : IsBest clk hz cmpMax ds q) (hd : ∀ d' ∈ ds, d ≤ d') :
    IsBest clk hz cmpMax (d :: ds) (keptPair clk hz p q) := by
  obtain ⟨hpd, hprange⟩ := hp.timerPair
  obtain ⟨hqd, hqrange⟩ := hq.timerPair
  have hpd : p.1 = d := List.mem_singleton.mp hpd
  have hright : searchKey clk hz (keptPair clk hz p q) ≤ searchKey clk hz q := by
    rcases (hd q.1 hqd).eq_or_lt with heq | hlt
    · exact (searchKey_keptPair_le_left clk hz p q).trans (hp.least q ⟨List.mem_singleton.mpr heq.symm, hqrange⟩)
    · exact searchKey_keptPair_le_right (Prod.Lex.toLex_le_toLex.mpr (.inl (hpd ▸ hlt)))
  refine ⟨TimerPair.of_kept ⟨List.mem_cons.mpr (.inl hpd), hprange⟩ ⟨List.mem_cons_of_mem d hqd, hqrange⟩, ?least⟩
  case least =>
    rintro r ⟨hrd, hrange⟩
    rcases List.mem_cons.mp hrd with hrd | hrd
    · exact (searchKey_keptPair_le_left clk hz p q).trans (hp.least r ⟨List.mem_singleton.mpr hrd, hrange⟩)
    · exact hright.trans (hq.least r ⟨hrd, hrange⟩)

/-- The best pair does not depend on the order of the divisors. -/
theorem IsBest.perm {ds ds' : List Nat} (h : IsBest clk hz cmpMax ds p) (hperm : ds.Perm ds') : IsBest clk hz cmpMax ds' p := by
  obtain ⟨⟨hd, hrange⟩, hleast⟩ := h
  exact ⟨⟨hperm.mem_iff.mp hd, hrange⟩, fun q ⟨hqd, hqrange⟩ => hleast q ⟨hperm.mem_iff.mpr hqd, hqrange⟩⟩

/-- The search over ascending divisors answers the best pair of all of them. -/
theorem bestOf_isBest (hhz : 1 ≤ hz) (hc : 2 ≤ cmpMax) {divs : List Nat} (hne : divs ≠ []) (hpos : ∀ d ∈ divs, 1 ≤ d)
    (hsorted : divs.Pairwise (· ≤ ·)) :
    ∃ p, bestOf clk hz (divs.flatMap (candidatesOf clk cmpMax hz)) = some p ∧ IsBest clk hz cmpMax divs p := by
  induction divs with
  | nil => exact absurd rfl hne
  | cons d ds ih =>
    have hd := isBest_bestFor (clk := clk) (Nat.mul_pos hhz (hpos d List.mem_cons_self)) hc
    obtain ⟨hhead, htail⟩ := List.pairwise_cons.mp hsorted
    cases ds with
    | nil => exact ⟨_, bestOf_candidatesOf clk cmpMax hz d, hd⟩
    | cons d' ds =>
      obtain ⟨q, hq, hbest⟩ := ih (List.cons_ne_nil d' ds) (fun e he => hpos e (List.mem_cons_of_mem d he)) htail
      exact ⟨_, bestOf_candidatesOf_append hq d, hd.cons hbest hhead⟩

end

/-- The constraints of R7 on the tone timer. -/
theorem tone_constraints {cfg : Config} (h : cfg.wf = true) :
    cfg.toneDivisors ≠ [] ∧ (∀ d ∈ cfg.toneDivisors, 1 ≤ d) ∧ 2 ≤ cfg.toneCmpMax := by
  obtain ⟨-, -, -, hne, hc⟩ := cfg_constraints h
  simp only [Config.wf, Bool.and_eq_true, List.all_eq_true, decide_eq_true_eq] at h
  obtain ⟨⟨-, hpos⟩, -⟩ := h
  exact ⟨hne, hpos, hc⟩

theorem bestDivisor_isBest {cfg : Config} (hw : cfg.wf = true) {hz : Nat} (hhz : 1 ≤ hz) :
    IsBest cfg.toneClk hz cfg.toneCmpMax cfg.toneDivisors (bestDivisor cfg hz) := by
  obtain ⟨hne, hpos, hc⟩ := tone_constraints hw
  have hperm := List.perm_insertionSort (· ≤ ·) cfg.toneDivisors
  obtain ⟨p, hp, hbest⟩ := bestOf_isBest (clk := cfg.toneClk) hhz hc (fun h => hne (List.nil_perm.mp (h ▸ hperm)))
    (fun d hd => hpos d (hperm.mem_iff.mp hd)) (List.pairwise_insertionSort (· ≤ ·) cfg.toneDivisors)
  have hanswer : bestDivisor cfg hz = p := by rw [bestDivisor, divisorCandidates_eq, hp, Option.getD_some]
  exact hanswer ▸ hbest.perm hperm

/-- Settles O44: the order of the search is the one in which the statement compares two pairs. -/
theorem bestDivisorIsTheExhaustiveBest : Obligations.BestDivisorIsTheExhaustiveBest := by
  intro cfg hz d k hw hhz hbest
  obtain ⟨⟨hd, hlow, hhigh⟩, hleast⟩ := hbest ▸ bestDivisor_isBest hw hhz
  refine ⟨hd, hlow, hhigh, fun d' hd' k' hlow' hhigh' => ?_⟩
  have hkey := searchKey_le_iff.mp (hleast (d', k') ⟨hd', hlow', hhigh'⟩)
  rwa [Prod.Lex.toLex_le_toLex] at hkey

/-! ### TONE_BEST_DIVISOR and TONE_EDGE -/

/-- Settles O45: the answer is the search's pair; 0 is refused before the search. -/
theorem toneBestDivisorAnswersThePair : Obligations.ToneBestDivisorAnswersThePair := by
  intro hz s t hs ht
  have hexec : exec (.toneBestDivisor hz) s = if hz = 0 then .refused .argOutOfRange
      else .next { s with fnResult := .divisor (bestDivisor s.cfg hz.toNat).1 (bestDivisor s.cfg hz.toNat).2 } := by
    simp only [exec, execToneBestDivisor, live_of_running hs.1, hs.2, if_neg (Nat.not_le.mpr ht)]
  exact ⟨fun hne => ⟨_, _, rfl, hexec.trans (if_neg hne)⟩, fun hz0 => hexec.trans (if_pos hz0)⟩

/-- Settles O46: the timer's own step, on a running and on a stopped timer. -/
theorem toneEdgeTogglesARunningTimer : Obligations.ToneEdgeTogglesARunningTimer := by
  intro s hs
  have hexec : exec .toneEdge s = _ := asAgent_of_stepOf hs _
  exact ⟨fun hrun => hexec.trans (if_pos hrun), fun hstop => hexec.trans (if_neg (ne_true_of_eq_false hstop))⟩

/-! ### The micro-steps of SET_FREQUENCY (R290 to R292) -/

section
variable {hz : U32} {s : State} {t k : Nat} {c : TaskCtl}

theorem exec_setFrequency_goesOn {n : Nat} (h : AtStep s t (.setFrequency hz) k c) (hn : freqNext hz k s = some n) :
    exec (.setFrequency hz) s = .next (movedTo (freqEffect hz k s) t c n) := by
  simp only [exec, execSetFrequency, asTask_of_atStep h, h.step_eq, hn, goStep_eq]

theorem exec_setFrequency_returns (h : AtStep s t (.setFrequency hz) k c) (hn : freqNext hz k s = none) :
    exec (.setFrequency hz) s = .next (returned (freqEffect hz k s) t c .none) := by
  simp only [exec, execSetFrequency, asTask_of_atStep h, h.step_eq, hn, finish_eq]

theorem freqNext_zero_same (h : hz = s.tone.freq) : freqNext hz 0 s = none := if_pos h

theorem freqNext_zero_other (h : hz ≠ s.tone.freq) : freqNext hz 0 s = some 1 := if_neg h

theorem freqEffect_record (h : hz = 0) : freqEffect hz 2 s = recordStopped s := if_pos h

theorem freqEffect_start (h : hz ≠ 0) : freqEffect hz 2 s = startTimer hz s := if_neg h

end

/-- Settles O42: the guard goes on or returns, the stop goes on, and either end of micro-step 2 returns. -/
theorem setFrequencyMicroSteps : Obligations.SetFrequencyMicroSteps := by
  intro hz s t c
  refine ⟨fun h hsame => ?same, fun h hother => ?other, fun h => ?stop, fun h hz0 => ?record, fun h hne => ?start⟩
  case same => exact exec_setFrequency_returns h (freqNext_zero_same hsame)
  case other => exact exec_setFrequency_goesOn h (freqNext_zero_other hother)
  case stop => exact ⟨s.drawBit 0, exec_setFrequency_goesOn h rfl⟩
  case record =>
    have hx := exec_setFrequency_returns h rfl
    rwa [freqEffect_record hz0] at hx
  case start =>
    have hx := exec_setFrequency_returns h rfl
    rw [freqEffect_start hne] at hx
    exact ⟨_, _, rfl, hx⟩

/-! ### A whole SET_FREQUENCY without interruption (R123, R301) -/

section
variable {hz : U32} {s : State} {t : Nat} {c : TaskCtl} {rest : List Line}

/-- The record or the restart returns (R292). -/
theorem setFrequency_endsIn_from_record (h : AtStep s t (.setFrequency hz) 2 c) (hs : s.schedule = rest) :
    ∃ c', c'.op = none ∧ EndsIn (.setFrequency hz) 0 s ((freqEffect hz 2 s).leftAt t c' rest) := by
  have hx := exec_setFrequency_returns h rfl
  obtain ⟨tone, es, draws, he⟩ := freqEffect_frame hz 2 s
  rw [he] at hx ⊢
  exact ⟨{ c with op := none, result := .none }, rfl, EndsIn.of_returns h hx h.1 rfl hs⟩

/-- The stop goes on to the record or the restart (R291). -/
theorem setFrequency_endsIn_from_stop (h : AtStep s t (.setFrequency hz) 1 c) (hs : s.schedule = goOn s :: rest) :
    ∃ c', c'.op = none ∧ EndsIn (.setFrequency hz) 1 s ((freqEffect hz 2 (freqEffect hz 1 s)).leftAt t c' rest) := by
  obtain ⟨hat, hends⟩ := EndsIn.of_goesOn (s' := freqEffect hz 1 s) (c' := { c with step := 2 }) h
    (exec_setFrequency_goesOn h rfl) h.op_eq rfl h.1 rfl hs
  obtain ⟨c', hop, hrest⟩ := setFrequency_endsIn_from_record hat rfl
  rw [freqEffect_leftAt, leftAt_leftAt] at hrest
  exact ⟨c', hop, hends hrest⟩

/-- SET_FREQUENCY to another frequency from its start: the stop, then the record or the restart (R290). -/
theorem setFrequency_endsIn (h : AtStep s t (.setFrequency hz) 0 c) (hne : hz ≠ s.tone.freq)
    (hs : s.schedule = List.replicate 2 (goOn s) ++ rest) :
    ∃ c', c'.op = none ∧ EndsIn (.setFrequency hz) 2 s ((freqEffect hz 2 (freqEffect hz 1 s)).leftAt t c' rest) := by
  obtain ⟨hat, hends⟩ := EndsIn.of_goesOn (s' := s) (c' := { c with step := 1 }) h
    (exec_setFrequency_goesOn h (freqNext_zero_other hne)) h.op_eq rfl h.1 rfl hs
  obtain ⟨c', hop, hrest⟩ := setFrequency_endsIn_from_stop hat rfl
  rw [freqEffect_leftAt, freqEffect_leftAt, leftAt_leftAt] at hrest
  exact ⟨c', hop, hends hrest⟩

end

/-- A written SET_FREQUENCY is a descriptor, so it is read back under any channel numbering (R120). -/
theorem decode_encode_setFrequency (ch ch' : Channels) (hz : U32) :
    decode ch (encode ch' (.setFrequency hz)) = .ok (.setFrequency hz) :=
  decode_pack (by decide) rfl hz.isLt (by simp)

/-- Settles O43: the first line issues the operation, and the two that go on stop the timer and record the frequency. -/
theorem uninterruptedSetFrequencyRecordsAndRuns : Obligations.UninterruptedSetFrequencyRecordsAndRuns := by
  intro hz s t c o rest hr ho hc hop hne hs
  have hstep := step_of_instrOf_some hr.1 hs (instrOf_of_issue rfl (decode_encode_setFrequency _ _ hz))
  have hat : AtStep (s.take { offer := o, body := .issue (encode s.cfg.channels (.setFrequency hz)) }
      (List.replicate 2 { offer := o, body := .resume } ++ rest)) t (.setFrequency hz) 0 (c.start _) := atStep_take_start hr ho hc hop
  obtain ⟨c', hop', s₁, hx, hsteps⟩ := setFrequency_endsIn hat hne rfl
  refine ⟨_, c', (steps_succ_of_next (hstep.trans hx) 2).trans hsteps, ?_⟩
  by_cases hz0 : hz = 0
  · rw [freqEffect_record hz0, if_pos hz0]
    exact ⟨rfl, hop', hz0.symm, (decide_eq_false (not_not_intro hz0)).symm, fun h => absurd hz0 h, rfl⟩
  · rw [freqEffect_start hz0, if_neg hz0]
    exact ⟨rfl, hop', rfl, (decide_eq_true hz0).symm, fun _ => rfl, List.append_assoc _ _ _⟩

/-! ### Two overlapping calls of SET_FREQUENCY (R302, R405) -/

/-- Task `t` has SET_FREQUENCY `hz` in progress, at micro-step `k`. -/
def InCall (s : State) (t : Nat) (hz : U32) (k : Nat) : Prop :=
  ∃ c, s.task[t]? = some c ∧ c.op = some (.setFrequency hz) ∧ c.step = k

/-- The line of task `t` that stood before the lines `rest` has led from `s` to `s'` by micro-step `k` of SET_FREQUENCY `hz`. -/
structure TookCallStep (hz : U32) (k t : Nat) (rest : List Line) (s s' : State) : Prop where
  step_eq : step s = .next s'
  running : Running s'
  schedule : s'.schedule = rest
  tone : s'.tone = (freqEffect hz k s).tone
  others : ∀ u, u ≠ t → s'.task[u]? = s.task[u]?
  inCall : ∀ n, freqNext hz k s = some n → InCall s' t hz n

section
variable {hz : U32} {s s' : State} {t k : Nat} {c : TaskCtl} {l : Line} {rest : List Line}

theorem InCall.of_other (h : InCall s t hz k) (h' : s'.task[t]? = s.task[t]?) : InCall s' t hz k := by
  rwa [InCall, h']

/-- The timer after a micro-step does not depend on the schedule or the present line. -/
theorem freqEffect_take_tone (hz : U32) (k : Nat) (s : State) (l : Line) (rest : List Line) :
    (freqEffect hz k (s.take l rest)).tone = (freqEffect hz k s).tone := by
  unfold freqEffect
  split
  · rfl
  · rfl
  · split <;> rfl

/-- Any line by which the task takes that micro-step. -/
theorem exists_tookCallStep_of_atStep (hr : Running s) (hs : s.schedule = l :: rest) (hi : instrOf s l = .ok (some (.setFrequency hz)))
    (h : AtStep (s.take l rest) t (.setFrequency hz) k c) : ∃ s', TookCallStep hz k t rest s s' := by
  have hstep := step_of_instrOf_some hr.1 hs hi
  have htone := freqEffect_take_tone hz k s l rest
  obtain ⟨tone, es, draws, he⟩ := freqEffect_frame hz k (s.take l rest)
  rw [he] at htone
  cases hn : freqNext hz k s with
  | some n =>
    have hx := exec_setFrequency_goesOn (n := n) h hn
    rw [he] at hx
    exact ⟨_, hstep.trans hx, hr, rfl, htone, fun u hu => List.getElem?_set_ne hu.symm,
      fun m hm => ⟨_, List.getElem?_set_self h.lt, h.op_eq, Option.some_inj.mp (hn.symm.trans hm)⟩⟩
  | none =>
    have hx := exec_setFrequency_returns h hn
    rw [he] at hx
    exact ⟨_, hstep.trans hx, hr, rfl, htone, fun u hu => List.getElem?_set_ne hu.symm, fun m hm => nomatch hn.symm.trans hm⟩

/-- The line that issues the call on an idle task. -/
theorem exists_tookCallStep_of_issue {ch : Channels} (hr : Running s) (hs : s.schedule = taskLine ch t (.setFrequency hz) :: rest)
    (hc : s.task[t]? = some c) (hop : c.op = none) : ∃ s', TookCallStep hz 0 t rest s s' :=
  exists_tookCallStep_of_atStep hr hs (instrOf_of_issue rfl (decode_encode_setFrequency _ _ hz)) (atStep_take_start hr rfl hc hop)

/-- A line that lets the call go on. -/
theorem InCall.exists_tookCallStep (h : InCall s t hz k) (hr : Running s) (hs : s.schedule = taskResume t :: rest) :
    ∃ s', TookCallStep hz k t rest s s' := by
  obtain ⟨c, hc, hop, rfl⟩ := h
  exact exists_tookCallStep_of_atStep hr hs ((instrOf_of_resume rfl rfl hc).trans (congrArg _ hop)) (atStep_take_resume hr rfl hc hop)

end

/-- Settles O59: A's restart comes after B's stop, and B's record of 0 leaves the timer as it is. -/
theorem overlappingSetFrequencyLeavesTheTimerRunning : Obligations.OverlappingSetFrequencyLeavesTheTimerRunning := by
  intro s a b ca cb hz rest hr hab hca hopa hcb hopb hhz hother hsound hs
  obtain ⟨s₁, A0⟩ := exists_tookCallStep_of_issue hr hs hca hopa
  obtain ⟨s₂, B0⟩ := exists_tookCallStep_of_issue A0.running A0.schedule ((A0.others b hab.symm).trans hcb) hopb
  have freq₁ : s₁.tone.freq = s.tone.freq := congrArg Tone.freq A0.tone
  have callA : InCall s₂ a hz 1 := (A0.inCall 1 (freqNext_zero_other hother.symm)).of_other (B0.others a hab)
  have callB : InCall s₂ b 0 1 := B0.inCall 1 (freqNext_zero_other (freq₁ ▸ hsound.symm))
  obtain ⟨s₃, B1⟩ := callB.exists_tookCallStep B0.running B0.schedule
  obtain ⟨s₄, A1⟩ := (callA.of_other (B1.others a hab)).exists_tookCallStep B1.running B1.schedule
  obtain ⟨s₅, A2⟩ := (A1.inCall 2 rfl).exists_tookCallStep A1.running A1.schedule
  have callB₅ : InCall s₅ b 0 2 := ((B1.inCall 2 rfl).of_other (A1.others b hab.symm)).of_other (A2.others b hab.symm)
  obtain ⟨s₆, B2⟩ := callB₅.exists_tookCallStep A2.running A2.schedule
  have tone₅ : s₅.tone = (startTimer hz s₄).tone := freqEffect_start hhz ▸ A2.tone
  have tone₆ : s₆.tone = { s₅.tone with freq := 0 } := B2.tone
  refine ⟨s₆, ?_, ?_, ?_⟩
  · simp only [steps, A0.step_eq, B0.step_eq, B1.step_eq, A1.step_eq, A2.step_eq, B2.step_eq]
  · rw [tone₆, tone₅]
    rfl
  · rw [tone₆]

end Sys2Proof.Machine
end

section
/-! The host operations (R320 to R330): SEND_UI_EVENT, the two receives, the overflow flag's pair and TICK. -/

namespace Sys2Proof.Machine

/-! ### SEND_UI_EVENT (R320, R321, R362) -/

/-- The tag of an argument that names an event is known. -/
theorem tagUnknown_of_uiEventOf {cfg : Config} {arg : UiArg} {ev : UiEvent} (h : uiEventOf cfg arg = some ev) :
    tagUnknown arg = false := by
  cases arg with
  | encoderMove enc time dir => rfl
  | periodicTick => rfl
  | pageChangeRequest page => rfl
  | generateSubModeRequest kind => rfl
  | unknownTag tag => cases h

section
variable {arg : UiArg} {ev : UiEvent} {s : State} {t k : Nat} {c : TaskCtl}

theorem exec_sendUiEvent_unknownTag (h : AtStep s t (.sendUiEvent arg) k c) (hu : tagUnknown arg = true) :
    exec (.sendUiEvent arg) s = .next (haltedWith { s with task := s.task.set t c } .unknownEventTag) := by
  simp only [exec, execSendUiEvent, asTask_of_atStep h, if_pos hu, fatalTask_eq]

theorem exec_sendUiEvent_outOfRange (h : AtStep s t (.sendUiEvent arg) k c) (hu : tagUnknown arg = false)
    (he : uiEventOf s.cfg arg = none) : exec (.sendUiEvent arg) s = .refused .argOutOfRange := by
  simp only [exec, execSendUiEvent, asTask_of_atStep h, if_neg (ne_true_of_eq_false hu), he]

theorem exec_sendUiEvent_room (h : AtStep s t (.sendUiEvent arg) k c) (he : uiEventOf s.cfg arg = some ev)
    (hq : s.qPrimary.length < s.cfg.primaryDepth) :
    exec (.sendUiEvent arg) s = .next (returned { s with qPrimary := s.qPrimary ++ [ev] } t c .sent) := by
  simp only [exec, execSendUiEvent, asTask_of_atStep h, if_neg (ne_true_of_eq_false (tagUnknown_of_uiEventOf he)), he,
    qSend_of_lt hq, finish_eq]

/-- A full primary queue under NonBlocking (R321). -/
theorem exec_sendUiEvent_full (h : AtStep s t (.sendUiEvent arg) k c) (he : uiEventOf s.cfg arg = some ev)
    (hq : s.cfg.primaryDepth ≤ s.qPrimary.length) (hp : s.cfg.uiSendPolicy = .nonBlocking) :
    exec (.sendUiEvent arg) s = .next (returned s t c .full) := by
  simp only [exec, execSendUiEvent, asTask_of_atStep h, if_neg (ne_true_of_eq_false (tagUnknown_of_uiEventOf he)), he,
    qSend_of_full hq, hp, finish_eq]

/-- A full primary queue under Blocking (R321). -/
theorem exec_sendUiEvent_holds (h : AtStep s t (.sendUiEvent arg) k c) (he : uiEventOf s.cfg arg = some ev)
    (hq : s.cfg.primaryDepth ≤ s.qPrimary.length) (hp : s.cfg.uiSendPolicy = .blocking) :
    exec (.sendUiEvent arg) s = .next { s with task := s.task.set t c } := by
  simp only [exec, execSendUiEvent, asTask_of_atStep h, if_neg (ne_true_of_eq_false (tagUnknown_of_uiEventOf he)), he,
    qSend_of_full hq, hp, holdTask_eq]

end

/-- Settles O47: in the order of R362 the tag is fatal, an argument that names no event is refused, and an event meets the queue. -/
theorem sendUiEventOutcomes : Obligations.SendUiEventOutcomes := by
  intro arg s t c h
  refine ⟨?tag, ?range, fun ev hev => ?queue⟩
  case tag =>
    rintro tag rfl htag
    exact exec_sendUiEvent_unknownTag h (decide_eq_true htag)
  case range =>
    rintro (⟨enc, time, rfl⟩ | ⟨page, rfl, hpage⟩ | ⟨kind, rfl, hkind⟩ | ⟨tag, rfl, htag⟩)
    · exact exec_sendUiEvent_outOfRange h rfl rfl
    · exact exec_sendUiEvent_outOfRange h rfl (if_neg (Nat.not_lt.mpr hpage))
    · exact exec_sendUiEvent_outOfRange h rfl (if_neg (Nat.not_lt.mpr hkind))
    · exact exec_sendUiEvent_outOfRange h (decide_eq_false (Nat.not_lt.mpr htag)) rfl
  case queue =>
    have he : uiEventOf s.cfg arg = some ev := by
      obtain ⟨enc, time, d, rfl, rfl⟩ | ⟨rfl, rfl⟩ | ⟨page, rfl, hpage, rfl⟩ | ⟨kind, rfl, hkind, rfl⟩ := hev
      · rfl
      · rfl
      · exact if_pos hpage
      · exact if_pos hkind
    exact ⟨exec_sendUiEvent_room h he, exec_sendUiEvent_full h he, exec_sendUiEvent_holds h he⟩

/-! ### The receives (R322, R324) -/

section
variable {s : State} {t k : Nat} {c : TaskCtl}

theorem exec_recvUiEvent_takes {ev : UiEvent} {q : List UiEvent} (h : AtStep s t .recvUiEvent k c) (hq : s.qPrimary = ev :: q) :
    exec .recvUiEvent s = .next (returned { s with qPrimary := q } t c (.event ev)) := by
  simp only [exec, execRecvUiEvent, asTask_of_atStep h, hq, finish_eq]

theorem exec_recvUiEvent_holds (h : AtStep s t .recvUiEvent k c) (hq : s.qPrimary = []) :
    exec .recvUiEvent s = .next { s with task := s.task.set t c } := by
  simp only [exec, execRecvUiEvent, asTask_of_atStep h, hq, holdTask_eq]

theorem exec_recvDiagEvent_takes {m : EncoderMove} {q : List EncoderMove} (h : AtStep s t .recvDiagEvent k c)
    (hq : s.qDiag = m :: q) : exec .recvDiagEvent s = .next (returned { s with qDiag := q } t c (.move m)) := by
  simp only [exec, execRecvDiagEvent, asTask_of_atStep h, hq, finish_eq]

theorem exec_recvDiagEvent_holds (h : AtStep s t .recvDiagEvent k c) (hq : s.qDiag = []) :
    exec .recvDiagEvent s = .next { s with task := s.task.set t c } := by
  simp only [exec, execRecvDiagEvent, asTask_of_atStep h, hq, holdTask_eq]

end

/-- Settles O48: for each receive, one case for each shape of its queue. -/
theorem receivesTakeTheHeadOrHold : Obligations.ReceivesTakeTheHeadOrHold := fun _ _ _ =>
  ⟨fun h _ _ => exec_recvUiEvent_takes h, exec_recvUiEvent_holds, fun h _ _ => exec_recvDiagEvent_takes h, exec_recvDiagEvent_holds⟩

/-! ### The overflow flag (R326, R327) -/

/-- Settles O49: each operation is one micro-step, which returns. -/
theorem overflowIsReadAndCleared : Obligations.OverflowIsReadAndCleared := by
  intro s t c
  refine ⟨fun h => ?read, fun h => ?clear⟩
  case read => simp only [exec, execReadOverflow, asTask_of_atStep h, finish_eq]
  case clear => simp only [exec, execClearOverflow, asTask_of_atStep h, finish_eq, State.clearOverflow]

/-! ### TICK (R330) -/

/-- Settles O50: the counter is a 32-bit word, whose successor wraps. -/
theorem tickCountsModulo : Obligations.TickCountsModulo := by
  intro s hs
  have hexec : exec .tick s = .next { s with tick := s.tick + 1 } := asAgent_of_stepOf hs _
  exact ⟨s.tick + 1, hexec, BitVec.toNat_add s.tick 1⟩

end Sys2Proof.Machine
end

section
/-! The fatal halt (R350 to R352): which operation raises which code, for what cause, and what its step leaves. -/

namespace Sys2Proof.Machine

/-! ### The six rows of R351 -/

/-- Instruction `i`, stepping from `s`, raises the fatal code `f`, and `u` is the state that takes the halt: the table of R394 after a failed RESET,
`s` itself in a tick, and in a task operation `s` with the task still in that operation (notes/assumptions/9.md). -/
inductive Raised (s : State) : Instr → FatalCode → State → Prop where
  | sourceMismatch (src : AudioSrc) (adc0 adc1 : U12) (hs : src ≠ .expected) :
      Raised s (.audioTick src adc0 adc1) .audioSourceMismatch s
  | unknownTag (tag : U8) (t n : Nat) (c : TaskCtl) (h : AtStep s t (.sendUiEvent (.unknownTag tag)) n c) (ht : 3 < tag.toNat) :
      Raised s (.sendUiEvent (.unknownTag tag)) .unknownEventTag { s with task := s.task.set t c }
  | resetCreation (busOk : Bool) : Raised s (.reset false busOk) .resourceCreationFailed (resetFields s)
  | badRelease (tok : U32) (t n : Nat) (c : TaskCtl) (h : AtStep s t (.busRelease tok) n c)
      (ho : s.owner ≠ some t ∨ tok.toNat ≠ t) :
      Raised s (.busRelease tok) .busReleaseFailed { s with task := s.task.set t c }
  | badTransfer (i : Instr) (t : Nat) (c : TaskCtl) (h : AtStep s t i 0 c) (hi : isTransceive i = true)
      (ho : s.owner ≠ some t ∨ ∃ tok word, i = .busTransceive tok word ∧ tok.toNat ≠ t) :
      Raised s i .transceiveWithoutOwnership { s with task := s.task.set t c }
  | resetBus : Raised s (.reset true false) .startupBusUnavailable (resetFields s)

/-- Of the arguments of SEND_UI_EVENT only an unknown tag has a tag above 3 (R105). -/
theorem exists_of_tagUnknown {arg : UiArg} (h : tagUnknown arg = true) : ∃ tag : U8, arg = .unknownTag tag ∧ 3 < tag.toNat := by
  cases arg with
  | unknownTag tag => exact ⟨tag, rfl, of_decide_eq_true h⟩
  | encoderMove | periodicTick | pageChangeRequest | generateSubModeRequest => cases h

/-! ### A step halts only by raising -/

section
variable {s s' : State} {i : Instr} {f : FatalCode}

/-- R350: a step leaves `halted` as it was or raises a code. RESET clears it, on a machine that is not halted. -/
theorem Did.halted_writer (h : Did s i s') : s'.halted = s.halted ∨ ∃ f u, Raised s i f u ∧ s' = haltedWith u f := by
  cases h with
  | resetDone hh => exact .inl hh.symm
  | resetCreation busOk => exact .inr ⟨_, _, .resetCreation busOk, rfl⟩
  | resetBus => exact .inr ⟨_, _, .resetBus, rfl⟩
  | mismatch src adc0 adc1 _ hs => exact .inr ⟨_, _, .sourceMismatch src adc0 adc1 hs, rfl⟩
  | badRelease tok t n c hat ho => exact .inr ⟨_, _, .badRelease tok t n c hat ho, rfl⟩
  | badTransfer i t c hat hi ho => exact .inr ⟨_, _, .badTransfer i t c hat hi ho, rfl⟩
  | badTag arg t n c hat hu =>
    obtain ⟨tag, rfl, ht⟩ := exists_of_tagUnknown hu
    exact .inr ⟨_, _, .unknownTag tag t n c hat ht, rfl⟩
  | interrupt sigs =>
    obtain ⟨_, _, _, _, hframe⟩ := interruptEncoders_frame s sigs
    exact .inl (by rw [hframe])
  | sample adc0 adc1 =>
    obtain ⟨_, _, _, hframe⟩ := audioSample_frame adc0 adc1 s
    exact .inl (by rw [hframe])
  | bridged ms =>
    obtain ⟨_, _, _, hframe⟩ := bridge_frame ms s
    exact .inl (by rw [hframe])
  | freqStep i hz k =>
    obtain ⟨_, _, _, hframe⟩ := freqEffect_frame hz k s
    exact .inl (by rw [hframe]; rfl)
  | modeEnable new => exact .inl (by rw [applyEnable_eq]; rfl)
  | _ => exact .inl rfl

/-- A step that ends halted raised that code: only a system that is not halted steps (R11). -/
theorem exec_raised (h : exec i s = .next s') (hf : s'.halted = some f) : ∃ u, Raised s i f u ∧ s' = haltedWith u f := by
  obtain hk | ⟨g, u, hr, rfl⟩ := (exec_did h).halted_writer
  · rw [exec_of_halted (hk.symm.trans hf)] at h
    cases h
  · obtain rfl : g = f := Option.some_inj.mp hf
    exact ⟨u, hr, rfl⟩

end

/-! ### The statements -/

/-- Settles O52: the code is one of the six rows, and its signal is what `haltedWith` appends to the trace. -/
theorem eachFatalCodeHasItsCause : Obligations.EachFatalCodeHasItsCause := by
  intro i s s' f h hf
  obtain ⟨u, hraised, rfl⟩ := exec_raised h hf
  refine ⟨⟨u.trace, rfl⟩, ?_⟩
  cases hraised with
  | sourceMismatch src adc0 adc1 hs => exact .inl ⟨rfl, src, adc0, adc1, rfl, hs⟩
  | unknownTag tag t n c hat ht => exact .inr (.inl ⟨rfl, tag, rfl, ht⟩)
  | resetCreation busOk => exact .inr (.inr (.inl ⟨rfl, busOk, rfl⟩))
  | badRelease tok t n c hat ho => exact .inr (.inr (.inr (.inl ⟨rfl, tok, t, rfl, hat.1.2, ho⟩)))
  | badTransfer i t c hat hi ho => exact .inr (.inr (.inr (.inr (.inl ⟨rfl, hi, t, hat.1.2, ho⟩))))
  | resetBus => exact .inr (.inr (.inr (.inr (.inr ⟨rfl, rfl⟩))))

/-- Settles O53: the state that takes the halt is the state before it, but for the control state of a task whose operation raised the code. -/
theorem fatalHaltWritesNothingElse : Obligations.FatalHaltWritesNothingElse := by
  intro i s s' f h hreset hf
  obtain ⟨u, hraised, rfl⟩ := exec_raised h hf
  cases hraised with
  | resetCreation | resetBus => exact Bool.noConfusion hreset
  | sourceMismatch src adc0 adc1 hs => exact ⟨s.task, rfl, .inl ⟨rfl, rfl⟩⟩
  | unknownTag tag t n c hat | badRelease tok t n c hat => exact ⟨_, rfl, .inr ⟨t, n, c, rfl, hat, hat.op_eq, rfl⟩⟩
  | badTransfer i t c hat hi => exact ⟨_, rfl, .inr ⟨t, 0, c, isTaskOp_of_isTransceive hi, hat, hat.op_eq, rfl⟩⟩

end Sys2Proof.Machine
end

section
/-! RESET (R390 to R394): when it is enabled, the table it leaves, and the halt of a failed one. -/

namespace Sys2Proof.Machine

/-! ### When RESET is enabled (R390) -/

section
variable {s t : State} {i : Instr}

/-- Every meaning but RESET's is guarded by `live`. -/
theorem exec_eq_live (h : isReset i = false) (s : State) : ∃ k, exec i s = live s k := by
  cases i with
  | reset => cases h
  | _ => exact ⟨_, rfl⟩

theorem eq_of_exec_unbooted (hb : s.booted = false) (hi : isReset i = false) (h : exec i s = .next t) : t = s := by
  obtain ⟨k, hk⟩ := exec_eq_live hi s
  obtain ⟨-, -, heq⟩ | ⟨⟨-, hbooted⟩, -⟩ := live_next (hk ▸ h)
  · exact heq
  · exact absurd (hb.symm.trans hbooted) (by decide)

/-- RESET of the environment on a machine that has not halted. -/
theorem exec_reset_eq (hh : s.halted = none) (ha : s.offer.agent = .environment) (createOk busOk : Bool) :
    exec (.reset createOk busOk) s =
      if s.booted then .next s
      else if createOk = false then .next (haltedWith (resetFields s) .resourceCreationFailed)
      else if busOk = false then .next (haltedWith (resetFields s) .startupBusUnavailable)
      else .next (resetFields s) := by
  simp only [exec, execReset, hh, ha, if_true, raiseFatal_eq]

theorem exec_reset_of_booted (h : StepOf s .environment) (createOk busOk : Bool) : exec (.reset createOk busOk) s = .next s := by
  obtain ⟨⟨hh, hb⟩, ha⟩ := h
  exact (exec_reset_eq hh ha createOk busOk).trans (if_pos hb)

theorem exec_reset_of_unbooted (hh : s.halted = none) (hb : s.booted = false) (ha : s.offer.agent = .environment)
    (createOk busOk : Bool) : exec (.reset createOk busOk) s =
      if createOk = false then .next (haltedWith (resetFields s) .resourceCreationFailed)
      else if busOk = false then .next (haltedWith (resetFields s) .startupBusUnavailable)
      else .next (resetFields s) :=
  (exec_reset_eq hh ha createOk busOk).trans (if_neg (by simp [hb]))

end

/-- Settles O3: before RESET the guard of every other meaning fails, and after it RESET's own does. -/
theorem resetIsFirstAndOnlyOnce : Obligations.ResetIsFirstAndOnlyOnce :=
  ⟨fun _ _ _ => eq_of_exec_unbooted, fun createOk busOk _ h => exec_reset_of_booted h createOk busOk⟩

/-- Settles O2: a failed draw of creation decides alone, and the trace that RESET empties holds the signal and nothing else. -/
theorem resetFailureHalts : Obligations.ResetFailureHalts := by
  intro createOk busOk s hh hb ha hfail
  refine ⟨haltedWith (resetFields s) (if createOk then .startupBusUnavailable else .resourceCreationFailed), ?_, rfl, rfl⟩
  rw [exec_reset_of_unbooted hh hb ha]
  cases createOk with
  | false => rfl
  | true =>
    have hbus : busOk = false := hfail
    rw [hbus]
    rfl

/-! ### The table of R394 -/

theorem encZero_hist (k : Fin 10) : EncState.zero.hist[k] = { st := 0, sig := 0, dir := none, dt := 0 } := by
  fin_cases k <;> rfl

theorem resetFields_enc (s : State) (i : EncIx) : (resetFields s).enc[i] = EncState.zero := by
  fin_cases i <;> rfl

/-- Settles O1: the drawn fields are in range by `resetDraws_legal`, and the others are those that `State.afterReset` writes. -/
theorem resetLeavesTheTable : Obligations.ResetLeavesTheTable := by
  intro s hh hb ha hw
  have hexec : exec (.reset true true) s = .next (resetFields s) := exec_reset_of_unbooted hh hb ha true true
  obtain ⟨hduty, htone⟩ := resetDraws_legal s hw
  have henc (i : EncIx) : (resetFields s).enc[i].st = 0 ∧ (resetFields s).enc[i].lastChange = 0 ∧
      ∀ k : Fin 10, (resetFields s).enc[i].hist[k] = { st := 0, sig := 0, dir := none, dt := 0 } := by
    rw [resetFields_enc]
    exact ⟨rfl, rfl, encZero_hist⟩
  have hidle (c : TaskCtl) (hc : c ∈ (resetFields s).task) : c.op = none ∧ c.step = 0 ∧ c.locals = Locals.empty ∧ c.result = .none := by
    obtain rfl : c = TaskCtl.idle := List.eq_of_mem_replicate hc
    exact ⟨rfl, rfl, rfl, rfl⟩
  exact ⟨resetFields s, hexec, henc, rfl, rfl, rfl, rfl, rfl, rfl, rfl, rfl, rfl, hduty, rfl, rfl, htone, rfl, List.length_replicate, hidle,
    rfl, rfl, rfl, rfl, rfl, rfl⟩

/-! ### The machine after reset, under the chip's configuration (R7, R74) -/

theorem distinct_distinctOr (c : Channels) : (distinctOr c).distinct = true := by
  unfold distinctOr
  split
  · assumption
  · decide

/-- The default `PROFILE_B_TABLE` is one that R146 admits. -/
theorem profileBTableOk_tableB : profileBTableOk tableB = true := by decide

/-- R7: each OPEN parameter of the chip was moved into its range, and the other defaults are admitted. -/
theorem chip_wf : chip.wf = true := by
  have hchannels : chip.channels.distinct = true := distinct_distinctOr _
  have htable : profileBTableOk chip.profileBTable = true := profileBTableOk_tableB
  simp only [Config.wf, hchannels, htable]
  simp [chip]

/-- The values that notes/assumptions/1.md names are in the ranges of R394. -/
theorem namedResetDraws_legal {cfg : Config} (hw : cfg.wf = true) :
    (1 ≤ (namedResetDraws cfg).pwmDuty ∧ (namedResetDraws cfg).pwmDuty < cfg.pwmPeriod) ∧
      (namedResetDraws cfg).div ∈ cfg.toneDivisors ∧ 2 ≤ (namedResetDraws cfg).cmp ∧ (namedResetDraws cfg).cmp ≤ cfg.toneCmpMax := by
  obtain ⟨-, -, hp, hd, hc⟩ := cfg_constraints hw
  obtain ⟨d, ds, hdivs⟩ := List.exists_cons_of_ne_nil hd
  have hdiv : (namedResetDraws cfg).div ∈ cfg.toneDivisors := by simp [namedResetDraws, hdivs]
  exact ⟨⟨Nat.le_refl 1, (by omega : 1 < cfg.pwmPeriod)⟩, hdiv, Nat.le_refl 2, hc⟩

/-- Settles O4: the state after reset is RESET's table with other draws, and the ranges of the draws are all that the invariant asks of them. -/
theorem resetStateMeetsInvariant : Obligations.ResetStateMeetsInvariant := by
  obtain ⟨hduty, htone⟩ := namedResetDraws_legal chip_wf
  have htable : Inv (resetFields State.reset) := Inv.resetFields chip_wf
  exact { htable with dutySafe := hduty, toneLegal := htone }

end Sys2Proof.Machine
end

section
/-! The hazards of overlapping and abandoned operations (70_reset_and_hazards.md): what the next caller of an abandoned transfer receives (R407),
and what two overlapping calls of SET_MODE leave (R403). -/

namespace Sys2Proof.Machine

/-! ### The lines of the two litmus runs: descriptors, which are read back under any channel numbering (R120) -/

theorem decode_encode_busTransceive (ch ch' : Channels) (tok word : U32) :
    decode ch (encode ch' (.busTransceive tok word)) = .ok (.busTransceive tok word) := by
  refine decode_pack (by decide) rfl (by omega) ?_
  congr 2 <;> exact bitVec_ofNat_eq (by omega)

theorem decode_encode_busComplete (ch ch' : Channels) (resp : U32) :
    decode ch (encode ch' (.busComplete resp)) = .ok (.busComplete resp) :=
  decode_pack (by decide) rfl resp.isLt (by simp)

theorem decode_encode_setMode (ch ch' : Channels) (new : AudioMode) :
    decode ch (encode ch' (.setMode new)) = .ok (.setMode new) := by
  cases new <;> rfl

/-- The bus device issues BUS_COMPLETE (R120). -/
theorem agentOfCode_busComplete (ch : Channels) (resp : U32) : agentOfCode (encode ch (.busComplete resp)) = .busDev := by
  simp [encode, pack, agentOfCode]

/-! ### The response of an abandoned transfer (R407) -/

section
variable {s : State} {t : Nat} {c : TaskCtl} {rest : List Line}

/-- The owner's line sends its word, whatever the slot holds, and the task then awaits the response (R220). -/
theorem step_transceive_starts {ch : Channels} {tok word : U32} (hr : Running s)
    (hs : s.schedule = taskLine ch t (.busTransceive tok word) :: rest) (hc : s.task[t]? = some c) (hop : c.op = none)
    (ho : s.owner = some t) (ht : tok.toNat = t) (hw : word &&& 0xFEF00000 = 0) :
    ∃ s' c', step s = .next s' ∧ Running s' ∧ s'.schedule = rest ∧ s'.xfer = .inFlight ∧
      s'.task[t]? = some c' ∧ c'.op = some (.busTransceive tok word) ∧ c'.step = 1 := by
  have hstep := step_of_instrOf_some hr.1 hs (instrOf_of_issue rfl (decode_encode_busTransceive _ _ tok word))
  have hat : AtStep (s.take _ rest) t (.busTransceive tok word) 0 (c.start _) :=
    atStep_take_start (l := taskLine ch t (.busTransceive tok word)) hr rfl hc hop
  obtain ⟨hsends, -⟩ := busTransceiveStart tok word _ t _ hat
  exact ⟨_, _, hstep.trans (hsends ho ht hw), hr, rfl, rfl, List.getElem?_set_self hat.lt, rfl, rfl⟩

/-- The bus device's line ends the transfer in flight (R230). -/
theorem step_busComplete_delivers {ch : Channels} {resp : U32} (hr : Running s)
    (hs : s.schedule = lineOf (encode ch (.busComplete resp)) :: rest) (hx : s.xfer = .inFlight) :
    ∃ s', step s = .next s' ∧ Running s' ∧ s'.schedule = rest ∧ s'.xfer = .done ∧ s'.rxReg = resp ∧ s'.task = s.task := by
  have hstep := step_of_instrOf_some hr.1 hs (instrOf_of_issue rfl (decode_encode_busComplete _ _ resp))
  have hat : StepOf (s.take (lineOf (encode ch (.busComplete resp))) rest) .busDev := ⟨hr, agentOfCode_busComplete ch resp⟩
  obtain ⟨hdelivers, -⟩ := busCompleteDelivers resp _ hat
  exact ⟨_, hstep.trans (hdelivers hx), hr, rfl, rfl, rfl, rfl⟩

/-- The line of a task whose transfer is done returns the response and frees the slot (R221). -/
theorem step_transfer_returns {i : Instr} (hr : Running s) (hs : s.schedule = taskResume t :: rest) (hc : s.task[t]? = some c)
    (hop : c.op = some i) (hi : isTransceive i = true) (hk : c.step = 1) (hx : s.xfer = .done) :
    ∃ s' c', step s = .next s' ∧ s'.task[t]? = some c' ∧ c'.op = none ∧ c'.result = .okResp s.rxReg ∧ s'.xfer = .idle := by
  have hstep := step_of_resume hr.1 hs rfl rfl hc hop
  have hat : AtStep (s.take (taskResume t) rest) t i 1 c := hk ▸ atStep_take_resume hr rfl hc hop
  have hreturns := (exec_transceive_wait hat hi rfl).trans (if_pos hx)
  exact ⟨_, _, hstep.trans hreturns, List.getElem?_set_self hat.lt, rfl, rfl, rfl⟩

end

/-- Settles O34: the transceive starts although the slot is stale, and the slot does not tell whose word a response answers. -/
theorem abandonedResponseReachesTheNextCaller : Obligations.AbandonedResponseReachesTheNextCaller := by
  intro s t c tok word r rest hr hc hop ho ht hw _ hs
  obtain ⟨s₁, c₁, hsend, hr₁, hs₁, hx₁, hc₁, hop₁, hk₁⟩ := step_transceive_starts hr hs hc hop ho ht hw
  obtain ⟨s₂, hdeliver, hr₂, hs₂, hx₂, hrx₂, htask⟩ := step_busComplete_delivers hr₁ hs₁ hx₁
  obtain ⟨s₃, c₃, hreturn, hc₃, hop₃, hres₃, hx₃⟩ := step_transfer_returns hr₂ hs₂ (htask ▸ hc₁) hop₁ rfl hk₁ hx₂
  refine ⟨s₃, c₃, ?_, hc₃, hop₃, hres₃.trans (congrArg Result.okResp hrx₂), hx₃⟩
  simp only [steps, hsend, hdeliver, hreturn]

/-! ### Two overlapping calls of SET_MODE while no tone sounds (R403) -/

/-- Task `t` has SET_MODE `new` in progress, at micro-step `k`, its nested call not begun. -/
def InSetMode (s : State) (t : Nat) (new : AudioMode) (k : Nat) : Prop :=
  ∃ c, s.task[t]? = some c ∧ c.op = some (.setMode new) ∧ c.step = k ∧ c.locals.nested = 0

/-- The line of task `t` that stood before the lines `rest` has led from `s` to `s'` by micro-step `k` of SET_MODE `new`, the tone being silent. -/
structure TookModeStep (new : AudioMode) (k t : Nat) (rest : List Line) (s s' : State) : Prop where
  step_eq : step s = .next s'
  running : Running s'
  schedule : s'.schedule = rest
  silent : s'.tone.freq = 0
  mode : s'.mode = if k = 2 then new else s.mode
  pwmEnabled : s'.pwmEnabled = if k = 3 then decide (new ≠ .off) else s.pwmEnabled
  others : ∀ u, u ≠ t → s'.task[u]? = s.task[u]?
  inCall : k < 3 → InSetMode s' t new (k + 1)

section
variable {new : AudioMode} {s s' : State} {t k : Nat} {c : TaskCtl} {l : Line} {rest : List Line}

theorem InSetMode.of_other (h : InSetMode s t new k) (h' : s'.task[t]? = s.task[t]?) : InSetMode s' t new k := by
  rwa [InSetMode, h']

/-- With the frequency 0 already the nested SET_FREQUENCY(0) returns at once (R290), so each micro-step goes on to the next one, and the last
returns; micro-step 2 writes the mode and micro-step 3 the enable (R260 to R263). -/
theorem exec_setMode_quiet (h : AtStep s t (.setMode new) k c) (hk : k ≤ 3) (hm : k = 0 → new ≠ s.mode) (hn : c.locals.nested = 0)
    (hf : s.tone.freq = 0) : ∃ c' tr, exec (.setMode new) s = .next (({ s with
          mode := if k = 2 then new else s.mode
          pwmEnabled := if k = 3 then decide (new ≠ .off) else s.pwmEnabled
          trace := tr } : State).setTask t c') ∧
      (k < 3 → c'.op = some (.setMode new) ∧ c'.step = k + 1 ∧ c'.locals.nested = 0) := by
  obtain rfl | rfl | rfl | rfl : k = 0 ∨ k = 1 ∨ k = 2 ∨ k = 3 := by omega
  · exact ⟨{ c with step := 1 }, s.trace, (exec_setMode_start h).trans (if_neg (hm rfl)), fun _ => ⟨h.op_eq, rfl, hn⟩⟩
  · have hret := exec_setMode_nestedReturn h (hn ▸ freqNext_zero_same hf.symm)
    rw [hn] at hret
    exact ⟨{ c with step := 2 }, s.trace, hret, fun _ => ⟨h.op_eq, rfl, hn⟩⟩
  · exact ⟨{ c with step := 3 }, s.trace, exec_setMode_modeWrite h, fun _ => ⟨h.op_eq, rfl, hn⟩⟩
  · have hret := exec_setMode_enable h
    rw [applyEnable_eq] at hret
    exact ⟨{ c with op := none, result := .none }, _, hret, fun h3 => absurd h3 (by decide)⟩

/-- Any line by which the task takes that micro-step. -/
theorem exists_tookModeStep_of_atStep (hr : Running s) (hf : s.tone.freq = 0) (hs : s.schedule = l :: rest)
    (hi : instrOf s l = .ok (some (.setMode new))) (h : AtStep (s.take l rest) t (.setMode new) k c) (hk : k ≤ 3)
    (hm : k = 0 → new ≠ s.mode) (hn : c.locals.nested = 0) : ∃ s', TookModeStep new k t rest s s' := by
  obtain ⟨c', tr, hx, hgoes⟩ := exec_setMode_quiet h hk hm hn hf
  exact ⟨_, (step_of_instrOf_some hr.1 hs hi).trans hx, hr, rfl, hf, rfl, rfl, fun u hu => List.getElem?_set_ne hu.symm,
    fun h3 => ⟨c', List.getElem?_set_self h.lt, hgoes h3⟩⟩

/-- The line that issues the call on an idle task. -/
theorem exists_tookModeStep_of_issue {ch : Channels} (hr : Running s) (hf : s.tone.freq = 0)
    (hs : s.schedule = taskLine ch t (.setMode new) :: rest) (hc : s.task[t]? = some c) (hop : c.op = none) (hm : new ≠ s.mode) :
    ∃ s', TookModeStep new 0 t rest s s' :=
  exists_tookModeStep_of_atStep hr hf hs (instrOf_of_issue rfl (decode_encode_setMode _ _ new)) (atStep_take_start hr rfl hc hop)
    (Nat.zero_le 3) (fun _ => hm) rfl

/-- A line that lets the call go on. -/
theorem InSetMode.exists_tookModeStep (h : InSetMode s t new (k + 1)) (hk : k < 3) (hr : Running s) (hf : s.tone.freq = 0)
    (hs : s.schedule = taskResume t :: rest) : ∃ s', TookModeStep new (k + 1) t rest s s' := by
  obtain ⟨c, hc, hop, hstep, hn⟩ := h
  exact exists_tookModeStep_of_atStep hr hf hs ((instrOf_of_resume rfl rfl hc).trans (congrArg _ hop))
    (hstep ▸ atStep_take_resume hr rfl hc hop) hk nofun hn

end

/-- Settles O58: B's mode write comes after A's, and A's output disable after B's enable. -/
theorem overlappingSetModeLeavesTheCarrierOff : Obligations.OverlappingSetModeLeavesTheCarrierOff := by
  intro s a b ca cb rest hr hab hca hopa hcb hopb hmode hf hs
  obtain ⟨s₁, A0⟩ := exists_tookModeStep_of_issue hr hf hs hca hopa (by rw [hmode]; decide)
  have mode₁ : s₁.mode = .toneFrequency := A0.mode.trans hmode
  obtain ⟨s₂, B0⟩ := exists_tookModeStep_of_issue A0.running A0.silent A0.schedule ((A0.others b hab.symm).trans hcb) hopb
    (by rw [mode₁]; decide)
  have callA₂ : InSetMode s₂ a .off 1 := (A0.inCall (by decide)).of_other (B0.others a hab)
  obtain ⟨s₃, A1⟩ := callA₂.exists_tookModeStep (by decide) B0.running B0.silent B0.schedule
  have callB₃ : InSetMode s₃ b .adcPassthrough 1 := (B0.inCall (by decide)).of_other (A1.others b hab.symm)
  obtain ⟨s₄, B1⟩ := callB₃.exists_tookModeStep (by decide) A1.running A1.silent A1.schedule
  have callA₄ : InSetMode s₄ a .off 2 := (A1.inCall (by decide)).of_other (B1.others a hab)
  obtain ⟨s₅, A2⟩ := callA₄.exists_tookModeStep (by decide) B1.running B1.silent B1.schedule
  have callB₅ : InSetMode s₅ b .adcPassthrough 2 := (B1.inCall (by decide)).of_other (A2.others b hab.symm)
  obtain ⟨s₆, B2⟩ := callB₅.exists_tookModeStep (by decide) A2.running A2.silent A2.schedule
  obtain ⟨s₇, B3⟩ := (B2.inCall (by decide)).exists_tookModeStep (by decide) B2.running B2.silent B2.schedule
  have callA₇ : InSetMode s₇ a .off 3 := ((A2.inCall (by decide)).of_other (B2.others a hab)).of_other (B3.others a hab)
  obtain ⟨s₈, A3⟩ := callA₇.exists_tookModeStep (by decide) B3.running B3.silent B3.schedule
  refine ⟨s₈, ?_, ?_, A3.pwmEnabled⟩
  · simp only [steps, A0.step_eq, B0.step_eq, A1.step_eq, B1.step_eq, A2.step_eq, B2.step_eq, B3.step_eq, A3.step_eq]
  · calc
      s₈.mode = s₇.mode := A3.mode
      _ = s₆.mode := B3.mode
      _ = .adcPassthrough := B2.mode

end Sys2Proof.Machine
end
